-- ==== Sys2Proof/Word.lean ====
section
/-! DEFINITION. The smallest unit of every address space of the block (R11, R50). -/

namespace Sys2Proof

/-- A byte is 8 bits (R11). -/
abbrev Byte := BitVec 8

/-- A byte string; offset 0 is the head (R11). -/
abbrev Bytes := List Byte

/-- An instant, in milliseconds on a scale that only `tsDecode` and `tsEncode` fix (R10; DESIGN CHOICE, log 11). -/
abbrev Instant := Rat

end Sys2Proof
end

