-- ==== Sys2Proof/Config.lean ====
section
/-! DEFINITION. The implementation parameters of R8. The constants the spec fixes are numerals; every parameter it
leaves OPEN is a field of `Cfg`, and the machine runs under the one uninterpreted `Config.cfg`. -/

namespace Sys2Proof

/-- `HLEN`, the byte length of the frame header (R8, R81, decision D1; log 17). -/
abbrev hlen : Nat := 36

/-- `TS_LEN`, the byte length of a timestamp (R8). -/
abbrev tsLen : Nat := 20

/-- `TR1LEN`, the byte length of trailer segment 1 (R8). -/
abbrev tr1Len : Nat := 8

/-- `CKLEN`, the byte length of the checksum (R8). -/
abbrev ckLen : Nat := 8

/-- The OPEN parameters of R8. The capacities are stored so that their bounds hold by construction:
`bodyMax` is 1 to 2^32 - 1 - 36, `authMax` a multiple of 4 up to 2^32, `txMax` at least 53 (DESIGN CHOICE of form, log 12). -/
structure Cfg where
  /-- `BODY_MAX - 1`. -/
  bodyMaxPred : Fin 4294967259
  /-- `AUTH_MAX / 4`. -/
  authMaxWords : Fin 1073741825
  /-- `FIFO_DEPTH`. -/
  fifoDepth : Nat
  /-- `TX_MAX - 53`. -/
  txMaxOver : Nat
  /-- `CRC64`, the Checksum Engine (R9; log 10). -/
  crc64 : Bytes → BitVec 64
  /-- `TS_DECODE` (R10; log 11). -/
  tsDecode : Vector Byte 20 → Option Instant
  /-- `TS_ENCODE` (R10; log 11). -/
  tsEncode : Instant → Option (Vector Byte 20)
  /-- `COMPRESSION_CODES` (R8, R239; log 13). -/
  compressionCodes : List Byte
  /-- `SENSOR_CODES` (R8, R239; log 13). -/
  sensorCodes : List Byte
  /-- FREE VALUE: what `EPOS` holds when the position does not fit its 32 bits (log 8). -/
  eposOverflow : Nat → BitVec 32
  /-- FREE VALUE: what length register `n` reads as when the length does not fit 32 bits (log 9). -/
  lengthOverflow : Nat → Nat → BitVec 32
deriving Inhabited

/-- The configuration of the machine: uninterpreted, so a theorem about `exec` or `step` holds for every configuration. -/
opaque Config.cfg : Cfg

end Sys2Proof
end

