-- ==== Sys2Proof/Machine/Codes.lean ====
section
/-! DEFINITION. The error taxonomy and its numbers (R260 to R262), and the capacities of R8. -/

namespace Sys2Proof

/-- `BODY_MAX` (R8). -/
def Cfg.bodyMax (c : Cfg) : Nat := c.bodyMaxPred.val + 1

/-- `AUTH_MAX` (R8). -/
def Cfg.authMax (c : Cfg) : Nat := 4 * c.authMaxWords.val

/-- `TX_MAX` (R8). -/
def Cfg.txMax (c : Cfg) : Nat := c.txMaxOver + 53

/-- The sub-causes of `MalformedFrame`, also the reasons a decoder fails (R262). -/
inductive MalformedSub where
  | badType | badToff | tooLarge | shortField | badEnum | blankField | badGaps | unsupportedType | badChanstr | shortAuth
deriving DecidableEq, Repr

/-- The sub-causes of `EncodeRejected`, also the reasons an encoder fails (R262). -/
inductive RejectSub where
  | typeMismatch | badToff | range | strTooLong | strBadChar | blankField | badGaps | unsupportedType | badChanstr | tooLarge
deriving DecidableEq, Repr

/-- The sub-causes of `Cancelled` (R262). -/
inductive CancelSub where
  | halt | intr
deriving DecidableEq, Repr

/-- The sub-causes of `StreamDesynchronized` (R262). -/
inductive DesyncSub where
  | haltMidframe | intrMidframe | shortRead
deriving DecidableEq, Repr

/-- The sub-causes of `CommandRefused` (R262). -/
inductive RefuseSub where
  | busy | desynced | noFrame | badCommand
deriving DecidableEq, Repr

/-- The aborting members of the taxonomy (R261). -/
inductive Err where
  | cancelled (sub : CancelSub)
  | desynchronized (sub : DesyncSub)
  | malformed (sub : MalformedSub)
  | rejected (sub : RejectSub)
  | refused (sub : RefuseSub)
deriving DecidableEq, Repr

/-- Numbers of the `MalformedFrame` sub-causes (R262). -/
def MalformedSub.code : MalformedSub → BitVec 8
  | .badType => 1 | .badToff => 2 | .tooLarge => 3 | .shortField => 4 | .badEnum => 5
  | .blankField => 6 | .badGaps => 7 | .unsupportedType => 8 | .badChanstr => 9 | .shortAuth => 10

/-- Numbers of the `EncodeRejected` sub-causes (R262). -/
def RejectSub.code : RejectSub → BitVec 8
  | .typeMismatch => 1 | .badToff => 2 | .range => 3 | .strTooLong => 4 | .strBadChar => 5
  | .blankField => 6 | .badGaps => 7 | .unsupportedType => 8 | .badChanstr => 9 | .tooLarge => 10

/-- `CAUSE` of an aborting error (R261). -/
def Err.cause : Err → BitVec 8
  | .cancelled _ => 1 | .desynchronized _ => 2 | .malformed _ => 3 | .rejected _ => 6 | .refused _ => 7

/-- `SUBCAUSE` of an aborting error (R262). -/
def Err.subcause : Err → BitVec 8
  | .cancelled .halt => 1 | .cancelled .intr => 2
  | .desynchronized .haltMidframe => 1 | .desynchronized .intrMidframe => 2 | .desynchronized .shortRead => 3
  | .malformed m => m.code
  | .rejected r => r.code
  | .refused .busy => 1 | .refused .desynced => 2 | .refused .noFrame => 3 | .refused .badCommand => 4

/-- Raised by the streamer, does the error invalidate the stream? All do but `Cancelled` (R270). -/
def Err.desynchronizes : Err → Bool
  | .cancelled _ => false
  | _ => true

end Sys2Proof
end

