-- ==== Sys2Proof/Machine/Operands.lean ====
section
/-! DEFINITION. The fixed-width-field aligner (40_field_primitives.md): every operand form of a frame. A `get` takes
a byte string and a cursor (R110); a `put` gives the bytes of one field or the reason it is rejected. -/

namespace Sys2Proof

/-! ## Lengths, slices, big-endian views -/

/-- `pad4(k)`, the least multiple of 4 that is at least `k` (R13, R134). -/
def pad4 (k : Nat) : Nat := 4 * ((k + 3) / 4)

/-- `padlen(k) = pad4(k) - k` (R13). -/
def padlen (k : Nat) : Nat := pad4 k - k

/-- `zeros(n)` (R11). -/
def zeros (n : Nat) : Bytes := List.replicate n 0

/-- `b[o .. o+n)` (R11). -/
def slice (b : Bytes) (o n : Nat) : Bytes := (b.drop o).take n

/-- A byte string read as one unsigned integer, most significant byte first (R12, R54). -/
def beNat (b : Bytes) : Nat := b.foldl (fun a x => 256 * a + x.toNat) 0

/-- `be32(b, o)` (R12). -/
def be32 (b : Bytes) (o : Nat) : Nat := beNat (slice b o 4)

/-- `be64(b, o)` (R12). -/
def be64 (b : Bytes) (o : Nat) : Nat := beNat (slice b o 8)

/-- `to_be(n, v)`, the `n`-byte big-endian string of `v mod 2^(8n)` (R12). -/
def toBe : Nat → Nat → Bytes
  | 0, _ => []
  | n + 1, v => BitVec.ofNat 8 (v / 256 ^ n) :: toBe n v

/-- `sext_64(v)`, two's complement (R12). -/
def sext64 (v : Nat) : Int := if v < 2 ^ 63 then (v : Int) else (v : Int) - 2 ^ 64

/-- The right-strip of R126: only trailing `0x00` bytes go. -/
def rstrip (s : Bytes) : Bytes := (s.reverse.dropWhile (fun x => x == 0)).reverse

/-- A value followed by `0x00` up to width `w` (R55, R127). -/
def padTo (w : Nat) (s : Bytes) : Bytes := s ++ zeros (w - s.length)

/-- *Blank*: empty, or every byte a space (R128). -/
def blank (s : Bytes) : Bool := s.all (fun x => x == 0x20)

/-! ## Reading -/

/-- The result of a decoder: a value and the cursor after it, or the reason and the position of the failure (R14). -/
inductive Res (α : Type) where
  | ok (v : α) (o : Nat)
  | fail (sub : MalformedSub) (pos : Nat)
deriving DecidableEq, Repr

/-- Left-to-right composition: the cursor of one is the cursor of the next, the first failure is the result (R110). -/
def Res.andThen {α β : Type} (r : Res α) (k : α → Nat → Res β) : Res β :=
  match r with
  | .ok v o => k v o
  | .fail sub pos => .fail sub pos

/-- `need(b, o, n)`, on unbounded naturals (R60, R111). -/
def need {α : Type} (b : Bytes) (o n : Nat) (r : Res α) : Res α :=
  if o + n ≤ b.length then r else .fail .shortField o

/-- An `n`-byte unsigned big-endian integer. -/
def getUInt (n : Nat) (b : Bytes) (o : Nat) : Res Nat := need b o n (.ok (beNat (slice b o n)) (o + n))

/-- `GETU8` (R112), the raw byte. -/
def getU8 (b : Bytes) (o : Nat) : Res Nat := getUInt 1 b o

/-- `GETU16` (R113). -/
def getU16 (b : Bytes) (o : Nat) : Res Nat := getUInt 2 b o

/-- `GETU32` (R114). -/
def getU32 (b : Bytes) (o : Nat) : Res Nat := getUInt 4 b o

/-- `GETU64` (R115). -/
def getU64 (b : Bytes) (o : Nat) : Res Nat := getUInt 8 b o

/-- `GETI64` (R116). -/
def getI64 (b : Bytes) (o : Nat) : Res Int := (getU64 b o).andThen fun v o => .ok (sext64 v) o

/-- `GETBYTES` (R118). -/
def getBytes (b : Bytes) (o n : Nat) : Res Bytes := need b o n (.ok (slice b o n) (o + n))

/-- `SKIP` (R120): the skipped bytes are not examined. -/
def skip (b : Bytes) (o n : Nat) : Res Unit := need b o n (.ok () (o + n))

/-- `PEEK4` (R135). -/
def peek4 (b : Bytes) (o : Nat) : Option Bytes := if o + 4 ≤ b.length then some (slice b o 4) else none

/-- `GETF32`, the bit pattern (R121). -/
def getF32 (b : Bytes) (o : Nat) : Res (BitVec 32) := (getU32 b o).andThen fun v o => .ok (BitVec.ofNat 32 v) o

/-- One raw byte as it stands: the read part of `GETBOOL` (R123) and `GETENUM` (R124). -/
def getByte (b : Bytes) (o : Nat) : Res Byte := (getU8 b o).andThen fun v o => .ok (BitVec.ofNat 8 v) o

/-- A received boolean: the raw byte is kept (R123; log 25). -/
structure BoolByte where
  raw : Byte
deriving DecidableEq, Repr

/-- The boolean view: true iff the byte is 1 (R123, decision D15). -/
def BoolByte.val (x : BoolByte) : Bool := x.raw == 1

/-- `GETBOOL` (R123): never fails on a value. -/
def getBool (b : Bytes) (o : Nat) : Res BoolByte := (getByte b o).andThen fun v o => .ok { raw := v } o

/-- `GETENUM` (R124). -/
def getEnum (codes : List Byte) (b : Bytes) (o : Nat) : Res Byte :=
  (getByte b o).andThen fun v o' => if v ∈ codes then .ok v o' else .fail .badEnum o

/-- `GETSTR` (R126). -/
def getStr (w : Nat) (b : Bytes) (o : Nat) : Res Bytes := need b o w (.ok (rstrip (slice b o w)) (o + w))

/-- `GETSTR` followed by `REQUIRE_NONBLANK` at the field's own offset (R126, R129). -/
def getNonblank (w : Nat) (b : Bytes) (o : Nat) : Res Bytes :=
  (getStr w b o).andThen fun s o' => if blank s then .fail .blankField o else .ok s o'

/-- `GETTS`: 20 raw bytes, not parsed (R130). -/
def getTs (b : Bytes) (o : Nat) : Res Bytes := getBytes b o tsLen

/-- `GETVAR`: unpadded length, value, padding (R132). -/
def getVar (b : Bytes) (o : Nat) : Res Bytes :=
  (getU32 b o).andThen fun k o1 => need b o1 (pad4 k) (.ok (slice b o1 k) (o1 + pad4 k))

/-! ## Writing -/

/-- The bytes of a field, or why the request is rejected. -/
abbrev Put := Except RejectSub Bytes

/-- The fields of an encoder in wire order; the first rejection is the result (R268). -/
def putAll : List Put → Put
  | [] => .ok []
  | .error e :: _ => .error e
  | .ok a :: ps =>
    match putAll ps with
    | .error e => .error e
    | .ok rest => .ok (a ++ rest)

/-- A precondition that writes nothing. -/
def check (c : Bool) (e : RejectSub) : Put := if c then .ok [] else .error e

/-- An `n`-byte unsigned integer in range, else `RANGE` (R117). -/
def putUInt (n v : Nat) : Put := if v < 256 ^ n then .ok (toBe n v) else .error .range

/-- `PUTU8` (R117). -/
def putU8 (v : Nat) : Put := putUInt 1 v

/-- `PUTU16` (R117). -/
def putU16 (v : Nat) : Put := putUInt 2 v

/-- `PUTU32` (R117). -/
def putU32 (v : Nat) : Put := putUInt 4 v

/-- `PUTU64` (R117). -/
def putU64 (v : Nat) : Put := putUInt 8 v

/-- `PUTI64` (R117), two's complement (R12). -/
def putI64 (v : Int) : Put :=
  if -(2 ^ 63) ≤ v ∧ v < 2 ^ 63 then .ok (toBe 8 (v % 2 ^ 64).toNat) else .error .range

/-- `PUTBYTES` (R119). -/
def putBytes (v : Bytes) : Put := .ok v

/-- `PUTF32` (R122). -/
def putF32 (p : BitVec 32) : Put := .ok (toBe 4 p.toNat)

/-- `PUTBOOL` of the boolean view (R123). -/
def putBool (x : BoolByte) : Put := .ok [if x.val then 1 else 0]

/-- `PUTENUM` (R125). -/
def putEnum (codes : List Byte) (v : Byte) : Put := if v ∈ codes then .ok [v] else .error .range

/-- `PUTSTR` (R127): the length first, then the characters. -/
def putStr (w : Nat) (s : Bytes) : Put :=
  if w < s.length then .error .strTooLong
  else if s.all (fun x => decide (0x01 ≤ x.toNat ∧ x.toNat ≤ 0x7F)) then .ok (padTo w s)
  else .error .strBadChar

/-- `PUTSTR` of a field of `REQUIRED_NONBLANK` (R127, R129). -/
def putNonblank (w : Nat) (s : Bytes) : Put :=
  match putStr w s with
  | .error e => .error e
  | .ok out => if blank s then .error .blankField else .ok out

/-- `PUTTS` (R131). -/
def putTs (t : Bytes) : Put := if t.length = tsLen then .ok t else .error .range

/-- `PUTVAR` (R133). -/
def putVar (v : Bytes) : Put :=
  if v.length < 2 ^ 32 then .ok (toBe 4 v.length ++ v ++ zeros (padlen v.length)) else .error .range

end Sys2Proof
end

