-- ==== Sys2Proof/Syntax.lean ====
section
/-! DEFINITION. Frame types, the records a body decodes to, the encoder's request, and the instructions: one
constructor for every row of the opcode table. -/

namespace Sys2Proof

/-- The closed enumeration of `frame_type` (R83). -/
inductive FrameType where
  | connectionRequest | connectionResponse | optionRequest | optionResponse | data | acknack | alert
  | commandRequest | commandResponse | cd1Encapsulation | customReset
deriving DecidableEq, Repr

/-! ## The decoded bodies. Integer fields hold the value, unsigned as a natural, signed as an integer: a request may
carry one outside its type, which the encoder rejects (R117; log 26). -/

/-- `ConnectionRequest` (R191). -/
structure ConnectionRequest where
  majorVersion : Nat
  minorVersion : Nat
  stationName : Bytes
  stationType : Bytes
  serviceType : Bytes
  ipAddress : Nat
  port : Nat
  secondIpAddress : Nat
  secondPort : Nat
deriving DecidableEq, Repr

/-- `ConnectionResponse` (R193). -/
structure ConnectionResponse where
  majorVersion : Nat
  minorVersion : Nat
  responderName : Bytes
  responderType : Bytes
  serviceType : Bytes
  ipAddress : Nat
  port : Nat
  secondIpAddress : Nat
  secondPort : Nat
deriving DecidableEq, Repr

/-- One record of an option frame (R195). -/
structure OptionRecord where
  optionType : Nat
  value : Bytes
deriving DecidableEq, Repr

/-- `OptionRequest` (R195). -/
structure OptionRequest where
  options : List OptionRecord
deriving DecidableEq, Repr

/-- `OptionResponse` (R197). -/
structure OptionResponse where
  options : List OptionRecord
deriving DecidableEq, Repr

/-- `Acknack` (R220); `gap_count` is the length of `gapRanges`. -/
structure Acknack where
  framesetAcked : Bytes
  lowestSeqNum : Int
  highestSeqNum : Int
  gapRanges : List (Int × Int)
deriving DecidableEq, Repr

/-- `Alert` (R199). -/
structure Alert where
  message : Bytes
deriving DecidableEq, Repr

/-- `CommandRequest` (R201). -/
structure CommandRequest where
  stationName : Bytes
  siteName : Bytes
  channelName : Bytes
  locationName : Bytes
  timeStamp : Bytes
  commandMessage : Bytes
deriving DecidableEq, Repr

/-- `CommandResponse` (R203). -/
structure CommandResponse where
  responderStation : Bytes
  siteName : Bytes
  channelName : Bytes
  locationName : Bytes
  timeStamp : Bytes
  commandRequestMessage : Bytes
  responseMessage : Bytes
deriving DecidableEq, Repr

/-- `ChannelSubframeHeader` (R232); `channel_string_count` is the length of `channelString`. -/
structure ChannelSubframeHeader where
  numChannels : Nat
  frameTimeLengthMs : Nat
  nominalTime : Bytes
  channelString : Bytes
deriving DecidableEq, Repr

/-- `ChannelSubframe` (R236); `auth_size` is the length of `authValue`, which is unpadded (R237). -/
structure ChannelSubframe where
  channelLength : Nat
  authOffset : Nat
  authenticationOn : BoolByte
  compressionFormat : Byte
  sensorType : Byte
  isCalib : BoolByte
  siteName : Bytes
  channelName : Bytes
  locationName : Bytes
  dataType : Bytes
  calibrationFactor : BitVec 32
  calibrationPeriod : BitVec 32
  timeStamp : Bytes
  subframeTimeLengthMs : Nat
  sampleCount : Nat
  channelStatusData : Bytes
  channelData : Bytes
  subframeCount : Nat
  authKeyId : Nat
  authValue : Bytes
deriving DecidableEq, Repr

/-- `Data` (R231). -/
structure DataFrame where
  header : ChannelSubframeHeader
  subframes : List ChannelSubframe
deriving DecidableEq, Repr

/-- `CustomReset` (R205). -/
structure CustomReset where
  blob : Bytes
deriving DecidableEq, Repr

/-- The variant record `V`: one case per type tag; code 13 has none (R28). -/
inductive Variant where
  | connectionRequest (r : ConnectionRequest)
  | connectionResponse (r : ConnectionResponse)
  | optionRequest (r : OptionRequest)
  | optionResponse (r : OptionResponse)
  | data (r : DataFrame)
  | acknack (r : Acknack)
  | alert (r : Alert)
  | commandRequest (r : CommandRequest)
  | commandResponse (r : CommandResponse)
  | customReset (r : CustomReset)
deriving DecidableEq, Repr

/-! ## The encoder's request -/

/-- What a request gives as its variant: a record, or an Acknack in the raw form that `MKACKNACK` builds from (R224). -/
inductive EncVariant where
  | record (v : Variant)
  | rawAcknack (framesetAcked : Bytes) (lowest highest : Int) (gapCount : Nat) (flat : List Int)
deriving DecidableEq, Repr

/-- `EncReq` (R180). `times` gives, for the variant's timestamp fields in wire order, an instant to be converted by
`TS_ENCODE`; where it gives none the record's own 20 bytes are taken (R131; log 11). -/
structure EncReq where
  frameType : Nat
  frameCreator : Bytes
  frameDestination : Bytes
  sequenceNumber : Nat
  series : Nat := 0
  variant : EncVariant
  times : List (Option Instant) := []
  authKeyId : Nat
  authValue : Bytes
deriving DecidableEq, Repr

/-! ## Instructions and their words -/

/-- The operands of a frame, at the level of the format of R80 to R82: the header and trailer fields, with the two
header strings stripped as the registers hold them (R26), the body and the padded authentication value as bytes. -/
structure Frame where
  trailerOffset : BitVec 32
  creator : Bytes
  destination : Bytes
  sequence : BitVec 64
  series : BitVec 32
  body : Bytes
  authKeyId : BitVec 32
  authSize : BitVec 32
  authValue : Bytes
  checksum : BitVec 64
deriving DecidableEq, Repr

/-- The four raw regions of one frame (R25, R80). -/
structure Regions where
  hdr : Bytes
  body : Bytes
  tr1 : Bytes
  tr2 : Bytes
deriving DecidableEq, Repr

/-- What the host puts on the command port: the 4-bit code and the argument lines, of which each command looks at its
own (R38; log 6). `fresh` is the stream that the environment binds if the command is `RESET` (R291). -/
structure Command where
  code : BitVec 4
  req : EncReq
  buf : Bytes
  fresh : Bytes
deriving DecidableEq, Repr

/-- The two instruction formats of the opcode table: `FRAME` and `CMD` (R92). -/
inductive InstrWord where
  | frame (r : Regions)
  | command (c : Command)
deriving DecidableEq, Repr

/-- One constructor for every row of the opcode table: the frames of R83, the commands of R89. -/
inductive Instr where
  | connreq (f : Frame)
  | connrsp (f : Frame)
  | optreq (f : Frame)
  | optrsp (f : Frame)
  | data (f : Frame)
  | acknack (f : Frame)
  | alert (f : Frame)
  | cmdreq (f : Frame)
  | cmdrsp (f : Frame)
  | cd1encap (f : Frame)
  | customreset (f : Frame)
  | nop
  | rdframe
  | decode
  | verify
  | encode (req : EncReq)
  | decodebuf (buf : Bytes)
  | reset (fresh : Bytes)
  | reservedCmd6
  | reservedCmd7
  | reservedCmd8
  | reservedCmd9
  | reservedCmd10
  | reservedCmd11
  | reservedCmd12
  | reservedCmd13
  | reservedCmd14
deriving DecidableEq, Repr

end Sys2Proof
end

