-- ==== Sys2Proof/WellFormed.lean ====
section
/-! DEFINITION. When a frame's operands are ones the format can carry (R26, R27, R81, R82, R84). -/

namespace Sys2Proof

/-- A header string as its register holds it: at most 8 bytes, the last not `0x00` (R26). -/
def nameOk (s : Bytes) : Bool := decide (s.length ≤ 8) && (s.getLast? != some 0)

/-- The trailer starts right after the body (R51, R84). -/
def Frame.offsetOk (f : Frame) : Bool := f.trailerOffset.toNat == hlen + f.body.length

/-- A body has at least one byte: `trailer_offset > HLEN` (R26, R84). -/
def Frame.bodyOk (f : Frame) : Bool := !f.body.isEmpty

/-- The authentication value is held padded (R27, R82). -/
def Frame.authOk (f : Frame) : Bool := f.authValue.length == pad4 f.authSize.toNat

/-- Every check of a frame. -/
def Frame.wellFormed (f : Frame) : Bool :=
  f.offsetOk && f.bodyOk && nameOk f.creator && nameOk f.destination && f.authOk

/-- A well-formed instruction. A command's argument is a record or a byte string handed over as it is: what `ENCODE`
rejects and what `DECODEBUF` finds malformed is the machine's to say (R178 to R180). -/
def Instr.wellFormed : Instr → Bool
  | .connreq f => f.wellFormed
  | .connrsp f => f.wellFormed
  | .optreq f => f.wellFormed
  | .optrsp f => f.wellFormed
  | .data f => f.wellFormed
  | .acknack f => f.wellFormed
  | .alert f => f.wellFormed
  | .cmdreq f => f.wellFormed
  | .cmdrsp f => f.wellFormed
  | .cd1encap f => f.wellFormed
  | .customreset f => f.wellFormed
  | .nop => true
  | .rdframe => true
  | .decode => true
  | .verify => true
  | .encode _ => true
  | .decodebuf _ => true
  | .reset _ => true
  | .reservedCmd6 => true
  | .reservedCmd7 => true
  | .reservedCmd8 => true
  | .reservedCmd9 => true
  | .reservedCmd10 => true
  | .reservedCmd11 => true
  | .reservedCmd12 => true
  | .reservedCmd13 => true
  | .reservedCmd14 => true

end Sys2Proof
end

