-- ==== Sys2Proof/Decode.lean ====
section
/-! DEFINITION. From words to instructions and back: the type map of R83, the header and trailer formats of R81 and
R82, the command codes of R89. Total on any bytes; what is no instruction is rejected by name. -/

namespace Sys2Proof

/-! ## The opcode maps -/

/-- The wire code of a frame type (R83). -/
def FrameType.code : FrameType → Nat
  | .connectionRequest => 1 | .connectionResponse => 2 | .optionRequest => 3 | .optionResponse => 4
  | .data => 5 | .acknack => 6 | .alert => 7 | .commandRequest => 8 | .commandResponse => 9
  | .cd1Encapsulation => 13 | .customReset => 26

/-- The frame type of a wire code; any integer outside the set has none (R83, R85). -/
def FrameType.ofCode (n : Nat) : Option FrameType :=
  if n = 1 then some .connectionRequest else if n = 2 then some .connectionResponse
  else if n = 3 then some .optionRequest else if n = 4 then some .optionResponse
  else if n = 5 then some .data else if n = 6 then some .acknack
  else if n = 7 then some .alert else if n = 8 then some .commandRequest
  else if n = 9 then some .commandResponse else if n = 13 then some .cd1Encapsulation
  else if n = 26 then some .customReset else none

/-- The instruction of a frame type with its operands. -/
def FrameType.instr (t : FrameType) (f : Frame) : Instr :=
  match t with
  | .connectionRequest => .connreq f
  | .connectionResponse => .connrsp f
  | .optionRequest => .optreq f
  | .optionResponse => .optrsp f
  | .data => .data f
  | .acknack => .acknack f
  | .alert => .alert f
  | .commandRequest => .cmdreq f
  | .commandResponse => .cmdrsp f
  | .cd1Encapsulation => .cd1encap f
  | .customReset => .customreset f

/-! ## Decoding -/

/-- Why bytes are no instruction. -/
inductive Reject where
  /-- fewer bytes than a header (R81) -/
  | shortHeader
  /-- fewer bytes than `trailer_offset` and trailer segment 1 need (R84) -/
  | shortBody
  /-- fewer bytes than `auth_size` and the checksum need (R84) -/
  | shortTrailer
  /-- a region whose length is not the one the format gives it (R80) -/
  | regionLength
  /-- a type word outside the closed enumeration (R85) -/
  | unknownType (code : Nat)
deriving DecidableEq, Repr

/-- The four regions of a frame whose trailer starts at `toff` and whose padded authentication value has `n` bytes (R51). -/
def regionsAt (b : Bytes) (toff n : Nat) : Regions :=
  { hdr := slice b 0 hlen, body := slice b hlen (toff - hlen), tr1 := slice b toff tr1Len, tr2 := slice b (toff + tr1Len) (n + ckLen) }

/-- Cut the first frame off a byte string: its regions and the bytes after it (R80, R84, R154). A `trailer_offset` that
points into the header leaves an empty body; the machine is the one to raise `BAD_TOFF` (log 7). -/
def splitFrame (b : Bytes) : Except Reject (Regions × Bytes) :=
  if b.length < hlen then .error .shortHeader
  else
    let toff := max (be32 b 4) hlen
    if b.length < toff + tr1Len then .error .shortBody
    else
      let n := pad4 (be32 b (toff + 4))
      if b.length < toff + tr1Len + n + ckLen then .error .shortTrailer
      else .ok (regionsAt b toff n, b.drop (toff + tr1Len + n + ckLen))

/-- The operands of a frame, read from its regions at the places of R81 and R82. -/
def frameOf (r : Regions) : Frame :=
  let n := pad4 (be32 r.tr1 4)
  { trailerOffset := BitVec.ofNat 32 (be32 r.hdr 4)
    creator := rstrip (slice r.hdr 8 8)
    destination := rstrip (slice r.hdr 16 8)
    sequence := BitVec.ofNat 64 (be64 r.hdr 24)
    series := BitVec.ofNat 32 (be32 r.hdr 32)
    body := r.body
    authKeyId := BitVec.ofNat 32 (be32 r.tr1 0)
    authSize := BitVec.ofNat 32 (be32 r.tr1 4)
    authValue := slice r.tr2 0 n
    checksum := BitVec.ofNat 64 (be64 r.tr2 n) }

/-- Decode a frame from its regions: the match of R83 on the word at frame offset 0. -/
def decodeRegions (r : Regions) : Except Reject Instr :=
  if r.hdr.length = hlen ∧ r.tr1.length = tr1Len ∧ r.tr2.length = pad4 (be32 r.tr1 4) + ckLen then
    match FrameType.ofCode (be32 r.hdr 0) with
    | some t => .ok (t.instr (frameOf r))
    | none => .error (.unknownType (be32 r.hdr 0))
  else .error .regionLength

/-- Decode the first frame of a byte string; the second component is what follows it. -/
def decodeFrame (b : Bytes) : Except Reject (Instr × Bytes) :=
  match splitFrame b with
  | .error e => .error e
  | .ok (r, rest) =>
    match decodeRegions r with
    | .error e => .error e
    | .ok i => .ok (i, rest)

/-- Decode what stands on the command port: every 4-bit code is a row (R38, R89). -/
def decodeCommand (c : Command) : Instr :=
  if c.code = 0 then .nop
  else if c.code = 1 then .rdframe
  else if c.code = 2 then .decode
  else if c.code = 3 then .verify
  else if c.code = 4 then .encode c.req
  else if c.code = 5 then .decodebuf c.buf
  else if c.code = 6 then .reservedCmd6
  else if c.code = 7 then .reservedCmd7
  else if c.code = 8 then .reservedCmd8
  else if c.code = 9 then .reservedCmd9
  else if c.code = 10 then .reservedCmd10
  else if c.code = 11 then .reservedCmd11
  else if c.code = 12 then .reservedCmd12
  else if c.code = 13 then .reservedCmd13
  else if c.code = 14 then .reservedCmd14
  else .reset c.fresh

/-- The decoder, of either format. -/
def decodeWord : InstrWord → Except Reject Instr
  | .frame r => decodeRegions r
  | .command c => .ok (decodeCommand c)

/-! ## Encoding -/

/-- The argument lines with nothing on them (log 6). -/
def EncReq.zero : EncReq :=
  { frameType := 0, frameCreator := [], frameDestination := [], sequenceNumber := 0
    variant := .record (.customReset { blob := [] }), authKeyId := 0, authValue := [] }

/-- A command without an argument. -/
def Command.plain (code : BitVec 4) : Command := { code := code, req := EncReq.zero, buf := [], fresh := [] }

/-- The regions of a frame of type `t` (R80 to R82). -/
def Frame.regions (t : FrameType) (f : Frame) : Regions :=
  { hdr := toBe 4 t.code ++ toBe 4 f.trailerOffset.toNat ++ padTo 8 f.creator ++ padTo 8 f.destination
      ++ toBe 8 f.sequence.toNat ++ toBe 4 f.series.toNat
    body := f.body
    tr1 := toBe 4 f.authKeyId.toNat ++ toBe 4 f.authSize.toNat
    tr2 := f.authValue ++ toBe 8 f.checksum.toNat }

/-- `RAW`, the bytes of a frame in frame order (R51). -/
def Regions.bytes (r : Regions) : Bytes := r.hdr ++ r.body ++ r.tr1 ++ r.tr2

/-- The encoder: the word of an instruction, from the same tables. -/
def encode : Instr → InstrWord
  | .connreq f => .frame (f.regions .connectionRequest)
  | .connrsp f => .frame (f.regions .connectionResponse)
  | .optreq f => .frame (f.regions .optionRequest)
  | .optrsp f => .frame (f.regions .optionResponse)
  | .data f => .frame (f.regions .data)
  | .acknack f => .frame (f.regions .acknack)
  | .alert f => .frame (f.regions .alert)
  | .cmdreq f => .frame (f.regions .commandRequest)
  | .cmdrsp f => .frame (f.regions .commandResponse)
  | .cd1encap f => .frame (f.regions .cd1Encapsulation)
  | .customreset f => .frame (f.regions .customReset)
  | .nop => .command (Command.plain 0)
  | .rdframe => .command (Command.plain 1)
  | .decode => .command (Command.plain 2)
  | .verify => .command (Command.plain 3)
  | .encode req => .command { Command.plain 4 with req := req }
  | .decodebuf buf => .command { Command.plain 5 with buf := buf }
  | .reset fresh => .command { Command.plain 15 with fresh := fresh }
  | .reservedCmd6 => .command (Command.plain 6)
  | .reservedCmd7 => .command (Command.plain 7)
  | .reservedCmd8 => .command (Command.plain 8)
  | .reservedCmd9 => .command (Command.plain 9)
  | .reservedCmd10 => .command (Command.plain 10)
  | .reservedCmd11 => .command (Command.plain 11)
  | .reservedCmd12 => .command (Command.plain 12)
  | .reservedCmd13 => .command (Command.plain 13)
  | .reservedCmd14 => .command (Command.plain 14)

/-! ## Words as the opcode table numbers them -/

/-- The first `k` 32-bit words of `w`, the first from bits 31..0, each stored most significant byte first (R54). -/
def tableBytes : Nat → Nat → Bytes
  | 0, _ => []
  | k + 1, w => toBe 4 (w % 2 ^ 32) ++ tableBytes k (w / 2 ^ 32)

/-- The bytes of a FRAME word of `nbits` bits, followed by zeros up to the shortest frame its header allows (log 7). -/
def tableFrame (nbits w : Nat) : Bytes :=
  let b := tableBytes ((nbits + 31) / 32) w
  let toff := max (be32 (b ++ zeros 8) 4) (hlen + 1)
  b ++ zeros (toff + 16 - b.length)

/-- The instruction that the decoder reads from a row's bits: at most 8 bits are a command code (bits 3:0), more are a
frame's first words. -/
def decodeTableWord (nbits w : Nat) : Option Instr :=
  if nbits ≤ 8 then some (decodeCommand (Command.plain (BitVec.ofNat 4 w)))
  else
    match decodeFrame (tableFrame nbits w) with
    | .ok (i, _) => some i
    | .error _ => none

end Sys2Proof
end

