-- ==== Sys2Proof/Machine/State.lean ====
section
/-! DEFINITION. The state record `S` of R20 as plain data, the environment's side of its ports, the reasons a step can
stop, and the state after reset (R43). -/

namespace Sys2Proof.Machine

/-- A buffer: (offset, byte) pairs, offsets strictly rising. An offset that is not listed holds no value (R14, R25,
R44; log 2), so no entry can equal what an unlisted offset reads as. -/
abbrev Memory := List Host.Cell

/-- The streamer's phase (R21). -/
inductive Phase where
  | idle | wHdr | wBody | wTr1 | wTr2 | done
deriving DecidableEq, Repr

/-- A skip record `(index, subcause, offset)` (R35). -/
structure SkipRecord where
  index : Nat
  subcause : BitVec 8
  offset : Nat
deriving DecidableEq, Repr

/-- What the host reads by name through the result port (R41, R44). `txBuf` is read by the transport as well (R39; DESIGN
CHOICE, log 32). The last two are the fields derived from the subframe at a place of `V` (R245, R246; log 30). -/
inductive ResultReg where
  | hType | hToff | hCreator | hDest | hSeq | hSeries
  | tKeyid | tAuthsz | tAuthval | tCksum
  | variant | skipList
  | hdrBuf | bodyBuf | tr1Buf | tr2Buf | txBuf
  | sampleRateHz (place : Nat)
  | endTime (place : Nat)
deriving DecidableEq, Repr

/-- What a host read delivers. -/
inductive HostValue where
  | none
  | word (v : BitVec 32)
  | long (v : BitVec 64)
  | bytes (b : Bytes)
  | variant (v : Variant)
  | skips (l : List SkipRecord)
  | rational (q : Option Rat)
deriving DecidableEq, Repr

/-- One move of the environment or the host (R18, R36 to R38, R282; log 3). The spec gives no operation by which the transport
takes the encoder's bytes (R18, R39): the move `readResult .txBuf` stands for it too (DESIGN CHOICE, log 32). -/
inductive Input where
  /-- the host issues a command -/
  | command (c : Command)
  /-- a poll step with the two cancellation levels; `short k` is a transport that returns at most `k` bytes (R143, R53) -/
  | poll (halt intr : Bool) (short : Option Nat)
  /-- the transport makes up to `n` more bytes of the stream available (R52) -/
  | arrive (n : Nat)
  /-- `CsrRead(n)` (R41) -/
  | csrRead (n : Nat)
  /-- `CsrWrite(n, v)` (R41) -/
  | csrWrite (n : Nat) (v : BitVec 32)
  /-- a read by name through the result port (R41, R44); of `TXBUF` by the host or by the transport (log 32) -/
  | readResult (r : ResultReg)
deriving DecidableEq, Repr

/-- Why the machine stops with a fault. -/
inductive Fault where
  /-- Raised by a host read of a register or buffer whose valid bit is 0: "A model faults a host read of an invalid
  register" (R44, U15). Safe: the spec gives the read no value. -/
  | invalidRead (r : ResultReg)
  /-- Raised where a buffer byte that nothing has written would be read; `MemRead` is defined only below the valid
  length (R14, R25). Safe: no state that a run from reset reaches does it. -/
  | byteWithoutValue
deriving DecidableEq, Repr

/-- Why an instruction has no meaning. -/
inductive Refusal where
  /-- An instruction of the table that `exec` gives no meaning yet. Safe: nothing is proved of it. No arm raises it. -/
  | notModelled (mnemonic : String)
deriving DecidableEq, Repr

/-- The state of one block instance (R20), and after it the environment's side of the ports (log 3). -/
structure State where
  /-- `PHASE` (R21) -/
  phase : Phase
  /-- `SPOS`, the program counter: bytes consumed since reset, modulo 2^64 (R22) -/
  spos : BitVec 64
  /-- `FSTART` (R23) -/
  fstart : BitVec 64
  /-- `DESYNC` (R24) -/
  desync : Bool
  /-- `HDRBUF` (R25) -/
  hdrBuf : Memory
  /-- `BODYBUF` (R25) -/
  bodyBuf : Memory
  /-- `TR1BUF` (R25) -/
  tr1Buf : Memory
  /-- `TR2BUF` (R25) -/
  tr2Buf : Memory
  /-- `BODYLEN` (R25) -/
  bodyLen : Nat
  /-- `TR2LEN` (R25) -/
  tr2Len : Nat
  /-- `RAWVALID` (R25) -/
  rawValid : Bool
  /-- `H_TYPE` (R26) -/
  hType : BitVec 32
  /-- `H_TOFF` (R26) -/
  hToff : BitVec 32
  /-- `H_CREATOR` (R26) -/
  hCreator : Bytes
  /-- `H_DEST` (R26) -/
  hDest : Bytes
  /-- `H_SEQ` (R26) -/
  hSeq : BitVec 64
  /-- `H_SERIES` (R26) -/
  hSeries : BitVec 32
  /-- `HDR_VALID` (R26) -/
  hdrValid : Bool
  /-- `T_KEYID` (R27) -/
  tKeyid : BitVec 32
  /-- `T_AUTHSZ` (R27) -/
  tAuthsz : BitVec 32
  /-- `T_AUTHVAL`, padded as received (R27) -/
  tAuthval : Bytes
  /-- `T_CKSUM` (R27) -/
  tCksum : BitVec 64
  /-- `V` (R28) -/
  v : Variant
  /-- `DECODED` (R28) -/
  decoded : Bool
  /-- `CRC_CHECKED` (R29) -/
  crcChecked : Bool
  /-- `CRC_OK` (R29) -/
  crcOk : Bool
  /-- `DEGRADED` (R35) -/
  degraded : Bool
  /-- `SKIPLIST` (R35) -/
  skipList : List SkipRecord
  /-- `CFG` (R30) -/
  cfg : BitVec 32
  /-- `CAUSE` (R32) -/
  cause : BitVec 8
  /-- `SUBCAUSE` (R32) -/
  subcause : BitVec 8
  /-- `EPOS` (R32) -/
  epos : BitVec 32
  /-- `WARN` (R33) -/
  warn : BitVec 32
  /-- `TXBUF` (R39) -/
  txBuf : Memory
  /-- `TXLEN` (R39) -/
  txLen : Nat
  /-- `TX_VALID` (R39) -/
  txValid : Bool
  /-- the transport's buffer: arrived and not consumed, first byte first (R42) -/
  fifo : Bytes
  /-- the bytes of the bound stream that have not arrived (R19) -/
  stream : Bytes
  /-- the moves of host and transport still to come, the next one first -/
  inputs : List Input
  /-- what the last host read delivered -/
  result : HostValue
deriving DecidableEq, Repr

/-- The state after reset (R43, R291). The field registers and the buffers have no value after reset and cannot be
read; the values they hold here are DESIGN CHOICES (log 1, 2), as are the empty ports (log 3). -/
def State.reset : State :=
  { phase := .idle, spos := 0, fstart := 0, desync := false
    hdrBuf := [], bodyBuf := [], tr1Buf := [], tr2Buf := [], bodyLen := 0, tr2Len := 0, rawValid := false
    hType := 0, hToff := 0, hCreator := [], hDest := [], hSeq := 0, hSeries := 0, hdrValid := false
    tKeyid := 0, tAuthsz := 0, tAuthval := [], tCksum := 0
    v := .customReset { blob := [] }, decoded := false
    crcChecked := false, crcOk := false, degraded := false, skipList := []
    cfg := 1, cause := 0, subcause := 0, epos := 0, warn := 0
    txBuf := [], txLen := 0, txValid := false
    fifo := [], stream := [], inputs := [], result := .none }

end Sys2Proof.Machine
end

