-- ==== Sys2Proof/Machine/Flags.lean ====
section
/-! DEFINITION. Every flag word and status view: `STATUS`, `COND`, `WARN`, the bit of `CFG`, the length registers. -/

namespace Sys2Proof.Machine

/-- A flag as the bit at place `i` of a 32-bit word. -/
def flagBit (i : Nat) (b : Bool) : BitVec 32 := if b then BitVec.ofNat 32 (2 ^ i) else 0

/-- A waiting phase: `BUSY` (R31). -/
def Phase.waiting : Phase → Bool
  | .wHdr => true | .wBody => true | .wTr1 => true | .wTr2 => true
  | .idle => false | .done => false

/-- `STATUS` (R31). -/
def State.status (s : State) : BitVec 32 :=
  flagBit 0 s.phase.waiting ||| flagBit 1 s.rawValid ||| flagBit 2 s.hdrValid ||| flagBit 3 s.decoded
    ||| flagBit 4 s.crcChecked ||| flagBit 5 (s.crcChecked && s.crcOk) ||| flagBit 6 s.degraded ||| flagBit 7 s.desync
    ||| flagBit 8 (s.cause != 0) ||| flagBit 9 s.txValid

/-- `COND`: `ChecksumMismatch` at bit 4, `PartialSubframeDecode` at bit 5 (R34). -/
def State.cond (s : State) : BitVec 32 :=
  flagBit 4 (s.crcChecked && !s.crcOk) ||| flagBit 5 s.degraded

/-- `W_BODYLEN` (R33). -/
def warnBodylen : BitVec 32 := 1

/-- `W_CHLEN` (R33). -/
def warnChlen : BitVec 32 := 2

/-- `W_REALIGN` (R33). -/
def warnRealign : BitVec 32 := 4

/-- A warning if its condition holds (R33). -/
def warnIf (w : BitVec 32) (c : Bool) : BitVec 32 := if c then w else 0

/-- `CFG.REALIGN`, bit 0 (R30). -/
def State.realign (s : State) : Bool := s.cfg.getLsbD 0

/-- The bits of `CFG` that a write stores: bit 0 alone (R30). -/
def cfgWritable (v : BitVec 32) : BitVec 32 := v &&& 1

/-- `EPOS` for a position: the position where 32 bits hold it, else a free value (R32; DESIGN CHOICE, log 8). -/
def eposOf (c : Cfg) (pos : Nat) : BitVec 32 := if pos < 2 ^ 32 then BitVec.ofNat 32 pos else c.eposOverflow pos

/-- What length register `n` reads as: the length where 32 bits hold it, else a free value (R41; DESIGN CHOICE, log 9). -/
def lengthView (c : Cfg) (n len : Nat) : BitVec 32 := if len < 2 ^ 32 then BitVec.ofNat 32 len else c.lengthOverflow n len

/-- `CsrRead(n)` (R41): the numbers above 11 read 0. -/
def State.csr (c : Cfg) (s : State) (n : Nat) : BitVec 32 :=
  if n = 0 then s.cfg
  else if n = 1 then s.status
  else if n = 2 then s.cause.setWidth 32
  else if n = 3 then s.subcause.setWidth 32
  else if n = 4 then s.epos
  else if n = 5 then s.cond
  else if n = 6 then s.warn
  else if n = 7 then s.spos.extractLsb' 0 32
  else if n = 8 then s.spos.extractLsb' 32 32
  else if n = 9 then lengthView c 9 s.bodyLen
  else if n = 10 then lengthView c 10 s.tr2Len
  else if n = 11 then lengthView c 11 s.txLen
  else 0

end Sys2Proof.Machine
end

