-- ==== Sys2Proof/Machine/Ops.lean ====
section
/-! DEFINITION. The named operations over buffers and registers, error entry as one operation (R270) and the clearing
that stands for a return from it (R274), command acceptance (R32, R40), the header and trailer decoders (R161, R166),
the checksum input (R170) and the decode of one frame (R178). -/

namespace Sys2Proof.Machine

/-! ## Buffers -/

/-- The byte at an offset, if it has a value. -/
def Memory.read : Memory → Nat → Option Byte
  | [], _ => none
  | (k, x) :: m, a => if k = a then some x else Memory.read m a

/-- A buffer that holds `b` from offset `a` on. -/
def Memory.ofBytesFrom : Nat → Bytes → Memory
  | _, [] => []
  | a, x :: b => (a, x) :: Memory.ofBytesFrom (a + 1) b

/-- A whole-region write, `BUF <- b` (R58, R145): the only way a buffer is written. Bytes beyond the new valid length
hold no value (R25). -/
def Memory.ofBytes (b : Bytes) : Memory := Memory.ofBytesFrom 0 b

/-- `MemRead(BUF, a, n)` (R14), if every byte has a value. -/
def Memory.load (m : Memory) : Nat → Nat → Option Bytes
  | _, 0 => some []
  | a, n + 1 =>
    match Memory.read m a with
    | none => none
    | some x =>
      match Memory.load m (a + 1) n with
      | none => none
      | some b => some (x :: b)

/-- The canonical form: offsets strictly rising, from `lo` on. -/
def Memory.wfFrom : Nat → Memory → Bool
  | _, [] => true
  | lo, (k, _) :: m => decide (lo ≤ k) && Memory.wfFrom (k + 1) m

/-- The canonical form of a buffer. -/
def Memory.wf (m : Memory) : Bool := Memory.wfFrom 0 m

/-! ## Error entry and what ends it -/

/-- Who raises an error (R270). -/
inductive Origin where
  | streamer | command
deriving DecidableEq, Repr

/-- `raise E(sub, pos)` (R14, R270): the three registers; from the streamer also `PHASE`, `RAWVALID` and, unless the
error is `Cancelled`, `DESYNC`. Nothing is saved anywhere else. -/
def raise (c : Cfg) (origin : Origin) (e : Err) (pos : Nat) (s : State) : State :=
  { s with
    cause := e.cause
    subcause := e.subcause
    epos := eposOf c pos
    phase := if origin = .streamer then .idle else s.phase
    rawValid := if origin = .streamer then false else s.rawValid
    desync := if origin = .streamer then s.desync || e.desynchronizes else s.desync }

/-- The end of an error: the acceptance of a command other than `NOP` clears the three registers (R32, R274). -/
def clearError (s : State) : State := { s with cause := 0, subcause := 0, epos := 0 }

/-- `CommandRefused(sub)`: the three registers and nothing else (R40, R269). -/
def refuse (c : Cfg) (sub : RefuseSub) (s : State) : State := raise c .command (.refused sub) 0 s

/-! ## Register groups -/

/-- The flags that `DECODE` and `DECODEBUF` clear on acceptance (R178). -/
def beginDecode (s : State) : State :=
  { clearError s with
    hdrValid := false, decoded := false, crcChecked := false, crcOk := false
    degraded := false, skipList := [], warn := 0 }

/-- Store the four regions of one complete frame (R25, R51). -/
def setRegions (r : Regions) (s : State) : State :=
  { s with
    hdrBuf := Memory.ofBytes r.hdr, bodyBuf := Memory.ofBytes r.body, bodyLen := r.body.length
    tr1Buf := Memory.ofBytes r.tr1, tr2Buf := Memory.ofBytes r.tr2, tr2Len := r.tr2.length
    rawValid := true, phase := .done }

/-- The four regions as the buffers hold them, up to their valid lengths (R25, R51). -/
def heldRegions (s : State) : Option Regions :=
  match Memory.load s.hdrBuf 0 hlen, Memory.load s.bodyBuf 0 s.bodyLen,
    Memory.load s.tr1Buf 0 tr1Len, Memory.load s.tr2Buf 0 s.tr2Len with
  | some hdr, some body, some tr1, some tr2 => some { hdr := hdr, body := body, tr1 := tr1, tr2 := tr2 }
  | _, _, _, _ => none

/-! ## Header and trailer -/

/-- The decoded FrameHeader (R26). -/
structure Header where
  ty : FrameType
  toff : BitVec 32
  creator : Bytes
  dest : Bytes
  seq : BitVec 64
  series : BitVec 32
deriving DecidableEq, Repr

/-- The decoded FrameTrailer (R27). -/
structure Trailer where
  keyid : BitVec 32
  authsz : BitVec 32
  authval : Bytes
  cksum : BitVec 64
deriving DecidableEq, Repr

/-- Why and where a stage of `DECODE` fails. -/
abbrev Failure := MalformedSub × Nat

/-- The two tests of `HDRDEC`, the type first (R161). -/
def headerChecks (ty tof : Nat) (cr de : Bytes) (sq se : Nat) : Except Failure Header :=
  match FrameType.ofCode ty with
  | none => .error (.badType, 0)
  | some t =>
    if tof ≤ hlen then .error (.badToff, 4)
    else .ok { ty := t, toff := BitVec.ofNat 32 tof, creator := cr, dest := de
               seq := BitVec.ofNat 64 sq, series := BitVec.ofNat 32 se }

/-- A decoder's failure, or what follows its success. -/
def stage {α β : Type} (r : Res α) (k : α → Except Failure β) : Except Failure β :=
  match r with
  | .ok v _ => k v
  | .fail sub pos => .error (sub, pos)

/-- `HDRDEC(h)` (R161): six fields in the order and at the offsets of R81. -/
def hdrDec (h : Bytes) : Except Failure Header :=
  stage (getU32 h 0) fun ty =>
  stage (getU32 h 4) fun tof =>
  stage (getStr 8 h 8) fun cr =>
  stage (getStr 8 h 16) fun de =>
  stage (getU64 h 24) fun sq =>
  stage (getU32 h 32) fun se =>
  headerChecks ty tof cr de sq se

/-- `TRLDEC(t1, t2)` (R166); `toff` is `H_TOFF`, for the position of `SHORT_AUTH`. -/
def trlDec (toff : BitVec 32) (t1 t2 : Bytes) : Except Failure Trailer :=
  stage (getU32 t1 0) fun kid =>
  stage (getU32 t1 4) fun asz =>
  if t2.length < pad4 asz + ckLen then .error (.shortAuth, toff.toNat + 8)
  else
    stage (getBytes t2 0 (pad4 asz)) fun av =>
    stage (getU64 t2 (pad4 asz)) fun ck =>
    .ok { keyid := BitVec.ofNat 32 kid, authsz := BitVec.ofNat 32 asz, authval := av, cksum := BitVec.ofNat 64 ck }

/-- The header of a frame instruction: its operands through the tests of R161. -/
def frameHeader (t : FrameType) (f : Frame) : Except Failure Header :=
  headerChecks t.code f.trailerOffset.toNat f.creator f.destination f.sequence.toNat f.series.toNat

/-- The trailer of a frame instruction (R166). -/
def frameTrailer (f : Frame) (toff : BitVec 32) : Except Failure Trailer :=
  if f.authValue.length < pad4 f.authSize.toNat then .error (.shortAuth, toff.toNat + 8)
  else .ok { keyid := f.authKeyId, authsz := f.authSize, authval := slice f.authValue 0 (pad4 f.authSize.toNat), cksum := f.checksum }

/-- Write the header registers (R161). -/
def setHeader (h : Header) (s : State) : State :=
  { s with
    hType := BitVec.ofNat 32 h.ty.code, hToff := h.toff, hCreator := h.creator, hDest := h.dest
    hSeq := h.seq, hSeries := h.series, hdrValid := true }

/-- Write the trailer registers and complete the decode (R166, R178). -/
def setTrailer (t : Trailer) (s : State) : State :=
  { s with tKeyid := t.keyid, tAuthsz := t.authsz, tAuthval := t.authval, tCksum := t.cksum, decoded := true }

/-! ## The decode of one frame -/

/-- What a body decoder gives besides the cursor: the record, the slots it skipped, the warnings it flags. -/
structure Body where
  v : Variant
  skips : List SkipRecord
  warn : BitVec 32
deriving DecidableEq, Repr

/-- A body without skips and warnings: every variant but `Data`. -/
def plainBody (v : Variant) : Body := { v := v, skips := [], warn := 0 }

/-- Take in a decoded body of which `consumed` of `len` bytes were used (R178, R209, R248, R250). -/
def setBody (b : Body) (consumed len : Nat) (s : State) : State :=
  { s with
    v := b.v
    skipList := b.skips
    degraded := !b.skips.isEmpty
    warn := s.warn ||| b.warn ||| warnIf warnBodylen (consumed != len) }

/-- The stages of `DECODE` after its clearing lines: header, body, trailer; the first that fails is reported (R178, R273). -/
def runDecode (c : Cfg) (header : Except Failure Header) (body : FrameType → Res Body) (len : Nat)
    (trailer : BitVec 32 → Except Failure Trailer) (s : State) : State :=
  match header with
  | .error (sub, pos) => raise c .command (.malformed sub) pos s
  | .ok h =>
    match body h.ty with
    | .fail sub pos => raise c .command (.malformed sub) (hlen + pos) (setHeader h s)
    | .ok b consumed =>
      match trailer h.toff with
      | .error (sub, pos) => raise c .command (.malformed sub) pos (setBody b consumed len (setHeader h s))
      | .ok t => setTrailer t (setBody b consumed len (setHeader h s))

/-- What a frame instruction does: `DECODE` run on its operands with the body decoder of its type (R177, R178; log 5). -/
def runFrame (c : Cfg) (t : FrameType) (body : Res Body) (f : Frame) (s : State) : State :=
  runDecode c (frameHeader t f) (fun _ => body) f.body.length (frameTrailer f) (beginDecode s)

/-! ## Checksum -/

/-- `CKIN(f)`: the frame with its last 8 bytes replaced by zero (R170). -/
def ckin (f : Bytes) : Bytes := f.take (f.length - ckLen) ++ zeros ckLen

/-- The comparison of `VERIFY` over the received bytes (R172, R173). -/
def checkCrc (c : Cfg) (raw : Bytes) (s : State) : State :=
  { s with crcChecked := true, crcOk := c.crc64 (ckin raw) == s.tCksum }

end Sys2Proof.Machine
end

