-- ==== Sys2Proof/Machine/ControlFrames.lean ====
section
/-! DEFINITION. Frame types 1, 2, 3, 4, 7, 8, 9, 13 and 26 (43_control_frames.md): body decoders, body encoders and the
meanings of the frames. The layouts of R191 to R204 are those the spec adopts by its decision D20 (PRESUMED, log 14). -/

namespace Sys2Proof.Machine

/-! ## Connection frames -/

/-- `CONNREQ_DEC` (R191). -/
def connReqDec (b : Bytes) : Res ConnectionRequest :=
  (getU16 b 0).andThen fun major o =>
  (getU16 b o).andThen fun minor o =>
  (getStr 8 b o).andThen fun name o =>
  (getStr 4 b o).andThen fun stype o =>
  (getStr 4 b o).andThen fun service o =>
  (getU32 b o).andThen fun ip o =>
  (getU16 b o).andThen fun port o =>
  (getU32 b o).andThen fun ip2 o =>
  (getU16 b o).andThen fun port2 o =>
  .ok { majorVersion := major, minorVersion := minor, stationName := name, stationType := stype, serviceType := service
        ipAddress := ip, port := port, secondIpAddress := ip2, secondPort := port2 } o

/-- `CONNREQ_ENC` (R192). -/
def connReqEnc (r : ConnectionRequest) : Put :=
  putAll [putU16 r.majorVersion, putU16 r.minorVersion, putStr 8 r.stationName, putStr 4 r.stationType,
    putStr 4 r.serviceType, putU32 r.ipAddress, putU16 r.port, putU32 r.secondIpAddress, putU16 r.secondPort]

/-- `CONNRSP_DEC` (R193). -/
def connRspDec (b : Bytes) : Res ConnectionResponse :=
  (getU16 b 0).andThen fun major o =>
  (getU16 b o).andThen fun minor o =>
  (getStr 8 b o).andThen fun name o =>
  (getStr 4 b o).andThen fun rtype o =>
  (getStr 4 b o).andThen fun service o =>
  (getU32 b o).andThen fun ip o =>
  (getU16 b o).andThen fun port o =>
  (getU32 b o).andThen fun ip2 o =>
  (getU16 b o).andThen fun port2 o =>
  .ok { majorVersion := major, minorVersion := minor, responderName := name, responderType := rtype, serviceType := service
        ipAddress := ip, port := port, secondIpAddress := ip2, secondPort := port2 } o

/-- `CONNRSP_ENC` (R194). -/
def connRspEnc (r : ConnectionResponse) : Put :=
  putAll [putU16 r.majorVersion, putU16 r.minorVersion, putStr 8 r.responderName, putStr 4 r.responderType,
    putStr 4 r.serviceType, putU32 r.ipAddress, putU16 r.port, putU32 r.secondIpAddress, putU16 r.secondPort]

/-! ## Option frames -/

/-- One option record: its type, then its value as a length-prefixed field (R195). -/
def optionDec (b : Bytes) (o : Nat) : Res OptionRecord :=
  (getU32 b o).andThen fun ty o =>
  (getVar b o).andThen fun val o =>
  .ok { optionType := ty, value := val } o

/-- The loop of R195: `n` records from `o` on. -/
def optionsDec (b : Bytes) : Nat → Nat → Res (List OptionRecord)
  | 0, o => .ok [] o
  | n + 1, o =>
    (optionDec b o).andThen fun x o =>
    (optionsDec b n o).andThen fun xs o =>
    .ok (x :: xs) o

/-- `option_count`, then that many records (R195, R197). -/
def optionListDec (b : Bytes) : Res (List OptionRecord) :=
  (getU32 b 0).andThen fun n o => optionsDec b n o

/-- The fields of the option records in wire order (R196). -/
def optionsEnc : List OptionRecord → List Put
  | [] => []
  | x :: xs => putU32 x.optionType :: putVar x.value :: optionsEnc xs

/-- `option_count`, then the records (R196, R198). -/
def optionListEnc (xs : List OptionRecord) : Put := putAll (putU32 xs.length :: optionsEnc xs)

/-- `OPTREQ_DEC` (R195). -/
def optReqDec (b : Bytes) : Res OptionRequest := (optionListDec b).andThen fun xs o => .ok { options := xs } o

/-- `OPTREQ_ENC` (R196). -/
def optReqEnc (r : OptionRequest) : Put := optionListEnc r.options

/-- `OPTRSP_DEC` (R197). -/
def optRspDec (b : Bytes) : Res OptionResponse := (optionListDec b).andThen fun xs o => .ok { options := xs } o

/-- `OPTRSP_ENC` (R198). -/
def optRspEnc (r : OptionResponse) : Put := optionListEnc r.options

/-! ## Alert -/

/-- `ALERT_DEC` (R199). -/
def alertDec (b : Bytes) : Res Alert := (getVar b 0).andThen fun msg o => .ok { message := msg } o

/-- `ALERT_ENC` (R200). -/
def alertEnc (r : Alert) : Put := putVar r.message

/-! ## Command frames -/

/-- `CMDREQ_DEC` (R201). -/
def cmdReqDec (b : Bytes) : Res CommandRequest :=
  (getStr 8 b 0).andThen fun station o =>
  (getStr 5 b o).andThen fun site o =>
  (getStr 3 b o).andThen fun chan o =>
  (getStr 2 b o).andThen fun loc o =>
  (getTs b o).andThen fun ts o =>
  (getVar b o).andThen fun msg o =>
  .ok { stationName := station, siteName := site, channelName := chan, locationName := loc, timeStamp := ts
        commandMessage := msg } o

/-- `CMDREQ_ENC` (R202). -/
def cmdReqEnc (r : CommandRequest) : Put :=
  putAll [putStr 8 r.stationName, putStr 5 r.siteName, putStr 3 r.channelName, putStr 2 r.locationName,
    putTs r.timeStamp, putVar r.commandMessage]

/-- `CMDRSP_DEC` (R203). -/
def cmdRspDec (b : Bytes) : Res CommandResponse :=
  (getStr 8 b 0).andThen fun station o =>
  (getStr 5 b o).andThen fun site o =>
  (getStr 3 b o).andThen fun chan o =>
  (getStr 2 b o).andThen fun loc o =>
  (getTs b o).andThen fun ts o =>
  (getVar b o).andThen fun reqMsg o =>
  (getVar b o).andThen fun rspMsg o =>
  .ok { responderStation := station, siteName := site, channelName := chan, locationName := loc, timeStamp := ts
        commandRequestMessage := reqMsg, responseMessage := rspMsg } o

/-- `CMDRSP_ENC` (R204). -/
def cmdRspEnc (r : CommandResponse) : Put :=
  putAll [putStr 8 r.responderStation, putStr 5 r.siteName, putStr 3 r.channelName, putStr 2 r.locationName,
    putTs r.timeStamp, putVar r.commandRequestMessage, putVar r.responseMessage]

/-! ## CustomReset and the reserved type -/

/-- `CUSTOMRESET_DEC` (R205): the whole body, opaque; never fails. -/
def customResetDec (b : Bytes) : Res CustomReset := (getBytes b 0 b.length).andThen fun blob o => .ok { blob := blob } o

/-- `CUSTOMRESET_ENC` (R206). -/
def customResetEnc (r : CustomReset) : Put := putBytes r.blob

/-- Type 13 has no body decoder (R207). -/
def cd1EncapsulationDec (_ : Bytes) : Res Variant := .fail .unsupportedType 0

/-! ## As cases of `BODYDEC` (R177) -/

/-- A decoded record as a body without skips and warnings. -/
def asBody {α : Type} (case : α → Variant) (r : Res α) : Res Body := r.andThen fun x o => .ok (plainBody (case x)) o

/-! ## The frames as instructions (log 5) -/

/-- CONNREQ (R191). -/
def execConnreq (f : Frame) (s : State) : Host.Outcome State Fault Refusal :=
  .next (runFrame Config.cfg .connectionRequest (asBody .connectionRequest (connReqDec f.body)) f s)

/-- CONNRSP (R193). -/
def execConnrsp (f : Frame) (s : State) : Host.Outcome State Fault Refusal :=
  .next (runFrame Config.cfg .connectionResponse (asBody .connectionResponse (connRspDec f.body)) f s)

/-- OPTREQ (R195). -/
def execOptreq (f : Frame) (s : State) : Host.Outcome State Fault Refusal :=
  .next (runFrame Config.cfg .optionRequest (asBody .optionRequest (optReqDec f.body)) f s)

/-- OPTRSP (R197). -/
def execOptrsp (f : Frame) (s : State) : Host.Outcome State Fault Refusal :=
  .next (runFrame Config.cfg .optionResponse (asBody .optionResponse (optRspDec f.body)) f s)

/-- ALERT (R199). -/
def execAlert (f : Frame) (s : State) : Host.Outcome State Fault Refusal :=
  .next (runFrame Config.cfg .alert (asBody .alert (alertDec f.body)) f s)

/-- CMDREQ (R201). -/
def execCmdreq (f : Frame) (s : State) : Host.Outcome State Fault Refusal :=
  .next (runFrame Config.cfg .commandRequest (asBody .commandRequest (cmdReqDec f.body)) f s)

/-- CMDRSP (R203). -/
def execCmdrsp (f : Frame) (s : State) : Host.Outcome State Fault Refusal :=
  .next (runFrame Config.cfg .commandResponse (asBody .commandResponse (cmdRspDec f.body)) f s)

/-- CD1ENCAP (R207): the header passes, the body raises `MalformedFrame(UNSUPPORTED_TYPE)` at `EPOS = HLEN`. -/
def execCd1encap (f : Frame) (s : State) : Host.Outcome State Fault Refusal :=
  .next (runFrame Config.cfg .cd1Encapsulation (asBody id (cd1EncapsulationDec f.body)) f s)

/-- CUSTOMRESET (R205, R306): a frame like any other; it resets nothing in the block. -/
def execCustomreset (f : Frame) (s : State) : Host.Outcome State Fault Refusal :=
  .next (runFrame Config.cfg .customReset (asBody .customReset (customResetDec f.body)) f s)

end Sys2Proof.Machine
end

