-- ==== Sys2Proof/Machine/AcknackFrame.lean ====
section
/-! DEFINITION. Frame type 6 (44_acknack.md): the gap list is transported, its meaning is not checked (R222). -/

namespace Sys2Proof.Machine

/-- The loop of R221: `n` gaps, each a start and an end. -/
def gapsDec (b : Bytes) : Nat → Nat → Res (List (Int × Int))
  | 0, o => .ok [] o
  | n + 1, o =>
    (getI64 b o).andThen fun s o =>
    (getI64 b o).andThen fun e o =>
    (gapsDec b n o).andThen fun gs o =>
    .ok ((s, e) :: gs) o

/-- `ACKNACK_DEC` (R221). -/
def acknackDec (b : Bytes) : Res Acknack :=
  (getStr 20 b 0).andThen fun fs o =>
  (getI64 b o).andThen fun lo o =>
  (getI64 b o).andThen fun hi o =>
  (getU32 b o).andThen fun n o =>
  (gapsDec b n o).andThen fun gaps o =>
  .ok { framesetAcked := fs, lowestSeqNum := lo, highestSeqNum := hi, gapRanges := gaps } o

/-- The fields of the gaps in wire order (R223). -/
def gapsEnc : List (Int × Int) → List Put
  | [] => []
  | (s, e) :: gs => putI64 s :: putI64 e :: gapsEnc gs

/-- `ACKNACK_ENC` (R223). -/
def acknackEnc (r : Acknack) : Put :=
  putAll (putStr 20 r.framesetAcked :: putI64 r.lowestSeqNum :: putI64 r.highestSeqNum
    :: putU32 r.gapRanges.length :: gapsEnc r.gapRanges)

/-- The flat array as consecutive pairs (R224). -/
def pairUp : List Int → List (Int × Int)
  | s :: e :: rest => (s, e) :: pairUp rest
  | _ => []

/-- `MKACKNACK` (R224). -/
def mkAcknack (frameset : Bytes) (lowest highest : Int) (gapCount : Nat) (flat : List Int) : Except RejectSub Acknack :=
  if flat.length % 2 ≠ 0 then .error .badGaps
  else if gapCount ≠ flat.length / 2 then .error .badGaps
  else .ok { framesetAcked := frameset, lowestSeqNum := lowest, highestSeqNum := highest, gapRanges := pairUp flat }

/-- ACKNACK (R221). -/
def execAcknack (f : Frame) (s : State) : Host.Outcome State Fault Refusal :=
  .next (runFrame Config.cfg .acknack (asBody .acknack (acknackDec f.body)) f s)

end Sys2Proof.Machine
end

