-- ==== Sys2Proof/Machine/DataFrame.lean ====
section
/-! DEFINITION. Frame type 5 (45_data_frame.md): the channel subframe header with its realignment heuristic, the channel
subframes, the skipping of a subframe that fails, the derived fields. Widths and order are those of R232 and R236
(decision D13; PRESUMED, log 16). -/

namespace Sys2Proof.Machine

/-! ## Channel subframe header -/

/-- `REALIGN(b, o)` (R234): the cursor, and whether four null bytes were taken as padding. -/
def realignAt (on : Bool) (b : Bytes) (o : Nat) : Nat × Bool :=
  if on && peek4 b o == some (zeros 4) then (o + 4, true) else (o, false)

/-- `CSHDEC(b)` (R233). The value carries whether `REALIGN` fired. -/
def cshDec (realign : Bool) (b : Bytes) : Res (ChannelSubframeHeader × Bool) :=
  (getU32 b 0).andThen fun nc o =>
  (getU32 b o).andThen fun ftl o =>
  (getTs b o).andThen fun nt o =>
  (getU32 b o).andThen fun cnt o' =>
  if cnt ≠ 10 * nc then .fail .badChanstr o
  else
    (getBytes b o' cnt).andThen fun cs o =>
    (skip b o (padlen cnt)).andThen fun _ o =>
    .ok ({ numChannels := nc, frameTimeLengthMs := ftl, nominalTime := nt, channelString := cs },
      (realignAt realign b o).2) (realignAt realign b o).1

/-- The fields of `CSHENC(h)` in wire order (R235; the order of the checks: DEDUCED, log 19). -/
def cshEnc (h : ChannelSubframeHeader) : List Put :=
  [putU32 h.numChannels, putU32 h.frameTimeLengthMs, putTs h.nominalTime,
    check (h.channelString.length == 10 * h.numChannels) .badChanstr, putU32 h.channelString.length,
    putBytes (h.channelString ++ zeros (padlen h.channelString.length))]

/-! ## Channel subframe -/

/-- `CSFDEC(b, s)` (R237): the first failing field is the one reported. -/
def csfDec (c : Cfg) (b : Bytes) (s : Nat) : Res ChannelSubframe :=
  (getU32 b s).andThen fun cl o =>
  (getU32 b o).andThen fun ao o =>
  (getBool b o).andThen fun aon o =>
  (getEnum c.compressionCodes b o).andThen fun cf o =>
  (getEnum c.sensorCodes b o).andThen fun st o =>
  (getBool b o).andThen fun cal o =>
  (getNonblank 5 b o).andThen fun site o =>
  (getNonblank 3 b o).andThen fun chan o =>
  (getStr 2 b o).andThen fun loc o =>
  (getStr 2 b o).andThen fun dt o =>
  (getF32 b o).andThen fun cfa o =>
  (getF32 b o).andThen fun cpe o =>
  (getTs b o).andThen fun ts o =>
  (getU32 b o).andThen fun stl o =>
  (getU32 b o).andThen fun sc o =>
  (getVar b o).andThen fun csd o =>
  (getVar b o).andThen fun cd o =>
  (getU32 b o).andThen fun sfc o =>
  (getU32 b o).andThen fun kid o =>
  (getVar b o).andThen fun av o =>
  .ok { channelLength := cl, authOffset := ao, authenticationOn := aon, compressionFormat := cf, sensorType := st
        isCalib := cal, siteName := site, channelName := chan, locationName := loc, dataType := dt
        calibrationFactor := cfa, calibrationPeriod := cpe, timeStamp := ts, subframeTimeLengthMs := stl
        sampleCount := sc, channelStatusData := csd, channelData := cd, subframeCount := sfc, authKeyId := kid
        authValue := av } o

/-- `SFLEN` (R243). -/
def sflen (f : ChannelSubframe) : Nat :=
  80 + pad4 f.channelStatusData.length + pad4 f.channelData.length + pad4 f.authValue.length

/-- The fields of `CSFENC(f)` in wire order (R242; the order of the checks: DEDUCED, log 19). -/
def csfEnc (c : Cfg) (f : ChannelSubframe) : List Put :=
  [putU32 f.channelLength, check (f.channelLength == sflen f - 4) .range, putU32 f.authOffset,
    putBool f.authenticationOn, putEnum c.compressionCodes f.compressionFormat, putEnum c.sensorCodes f.sensorType,
    putBool f.isCalib, putNonblank 5 f.siteName, putNonblank 3 f.channelName, putStr 2 f.locationName,
    putStr 2 f.dataType, putF32 f.calibrationFactor, putF32 f.calibrationPeriod, putTs f.timeStamp,
    putU32 f.subframeTimeLengthMs, putU32 f.sampleCount, putVar f.channelStatusData, putVar f.channelData,
    putU32 f.subframeCount, putU32 f.authKeyId, putVar f.authValue]

/-! ## The whole body -/

/-- What the slots of a Data body give (R248). -/
structure Slots where
  subframes : List ChannelSubframe
  skips : List SkipRecord
  chlen : Bool
  cursor : Nat
deriving DecidableEq, Repr

/-- The slots from `i` on, `n` of them, all logged as `SHORT_FIELD` at `o` (R248). -/
def giveUp (o : Nat) : Nat → Nat → List SkipRecord
  | 0, _ => []
  | n + 1, i => { index := i, subcause := MalformedSub.shortField.code, offset := o } :: giveUp o n (i + 1)

/-- The loop of R248: `n` slots still to come, the next one number `i`, at cursor `o`. -/
def slotsDec (c : Cfg) (b : Bytes) : Nat → Nat → Nat → Slots
  | 0, _, o => { subframes := [], skips := [], chlen := false, cursor := o }
  | n + 1, i, o =>
    match csfDec c b o with
    | .ok f o' =>
      let rest := slotsDec c b n (i + 1) o'
      { rest with subframes := f :: rest.subframes, chlen := (o' - o != 4 + f.channelLength) || rest.chlen }
    | .fail sub _ =>
      let skipped : SkipRecord := { index := i, subcause := sub.code, offset := o }
      if o + 4 ≤ b.length ∧ o + 4 + be32 b o ≤ b.length then
        let rest := slotsDec c b n (i + 1) (o + 4 + be32 b o)
        { rest with skips := skipped :: rest.skips }
      else
        { subframes := [], skips := skipped :: giveUp o n (i + 1), chlen := false, cursor := o }

/-- `DATA_DEC(b)` (R248): only a failure of the header fails the frame. -/
def dataDec (c : Cfg) (realign : Bool) (b : Bytes) : Res Body :=
  (cshDec realign b).andThen fun h o =>
  let r := slotsDec c b h.1.numChannels 0 o
  .ok { v := .data { header := h.1, subframes := r.subframes }, skips := r.skips
        warn := warnIf warnChlen r.chlen ||| warnIf warnRealign h.2 } r.cursor

/-- The fields of all subframes in wire order (R251). -/
def subframesEnc (c : Cfg) : List ChannelSubframe → List Put
  | [] => []
  | f :: fs => csfEnc c f ++ subframesEnc c fs

/-- `DATA_ENC(v)` (R251). -/
def dataEnc (c : Cfg) (d : DataFrame) : Put :=
  putAll (check (d.subframes.length == d.header.numChannels) .range :: (cshEnc d.header ++ subframesEnc c d.subframes))

/-! ## Derived fields -/

/-- `sample_rate_hz` (R245): exact, no value when the length is 0. -/
def sampleRateHz (f : ChannelSubframe) : Option Rat :=
  if f.subframeTimeLengthMs = 0 then none else some ((1000 * f.sampleCount : Nat) / (f.subframeTimeLengthMs : Nat) : Rat)

/-- 20 raw bytes as the argument of `TS_DECODE` (R10). -/
def bytes20 (b : Bytes) : Option (Vector Byte 20) :=
  if h : b.toArray.size = 20 then some ⟨b.toArray, h⟩ else none

/-- `end_time` (R246): exact, in milliseconds; no value when a divisor is 0 or the timestamp does not convert. -/
def endTime (c : Cfg) (f : ChannelSubframe) : Option Rat :=
  if f.sampleCount = 0 ∨ f.subframeTimeLengthMs = 0 then none
  else
    match (bytes20 f.timeStamp).bind c.tsDecode with
    | none => none
    | some t => some (t + ((f.subframeTimeLengthMs : Rat) - (f.subframeTimeLengthMs : Rat) / (f.sampleCount : Rat)))

/-- DATA (R248): `CFG.REALIGN` is read when the frame is decoded (R301). -/
def execData (f : Frame) (s : State) : Host.Outcome State Fault Refusal :=
  .next (runFrame Config.cfg .data (dataDec Config.cfg s.realign f.body) f s)

end Sys2Proof.Machine
end

