-- ==== Sys2Proof/Machine/Streamer.lean ====
section
/-! DEFINITION. The length-prefixed-frame streamer (41_streamer.md): `RDFRAME`, the poll step and its ends. -/

namespace Sys2Proof.Machine

/-! ## RDFRAME -/

/-- What an accepted `RDFRAME` does (R141). -/
def startRead (s : State) : State :=
  { clearError s with
    rawValid := false, hdrValid := false, decoded := false, crcChecked := false, crcOk := false
    bodyLen := 0, tr2Len := 0, fstart := s.spos, phase := .wHdr }

/-- RDFRAME (R141): refused with `BUSY` in a waiting phase, with `DESYNCED` on an invalid stream (R40). -/
def execRdframe (s : State) : Host.Outcome State Fault Refusal :=
  if s.phase.waiting then .next (refuse Config.cfg .busy s)
  else if s.desync then .next (refuse Config.cfg .desynced s)
  else .next (startRead s)

/-! ## The transport -/

/-- `StreamAvail()` (R52). -/
def streamAvail (s : State) : Nat := s.fifo.length

/-- What `StreamRead(n)` returns: the front of the transport's buffer, at most `k` bytes where the transport fails after
`k` (R53; log 20). -/
def streamRead (n : Nat) (short : Option Nat) (s : State) : Bytes :=
  match short with
  | none => s.fifo.take n
  | some k => s.fifo.take (min n k)

/-- `StreamRead(n)` with the advance of `SPOS` by exactly the bytes consumed (R22, R143, R145). -/
def consume (d : Bytes) (s : State) : State :=
  { s with spos := s.spos + BitVec.ofNat 64 d.length, fifo := s.fifo.drop d.length }

/-- The transport makes up to `n` more bytes available, never more than `FIFO_DEPTH` at once (R52; log 21). -/
def arrive (c : Cfg) (n : Nat) (s : State) : State :=
  let k := min n (c.fifoDepth - s.fifo.length)
  { s with fifo := s.fifo ++ s.stream.take k, stream := s.stream.drop k }

/-! ## The awaited region -/

/-- The stored header's `trailer_offset` (R142). -/
def storedToff (s : State) : Option Nat := (Memory.load s.hdrBuf 4 4).map beNat

/-- `need_len(S)` (R142). -/
def needLen (s : State) : Option Nat :=
  match s.phase with
  | .wHdr => some hlen
  | .wBody => (storedToff s).map (fun toff => toff - hlen)
  | .wTr1 => some tr1Len
  | .wTr2 => (Memory.load s.tr1Buf 4 4).map (fun b => pad4 (beNat b) + ckLen)
  | .idle => none
  | .done => none

/-- The offset in the frame of the next byte to consume, `SPOS - FSTART` (R23, R32). -/
def frameOffset (s : State) : Nat := (s.spos - s.fstart).toNat

/-- `fatal(StreamDesynchronized, sub)` (R147, R148). -/
def fatalDesync (c : Cfg) (sub : DesyncSub) (s : State) : State :=
  raise c .streamer (.desynchronized sub) (frameOffset s) s

/-- `fatal_malformed(sub)` (R149, R150). -/
def fatalMalformed (c : Cfg) (sub : MalformedSub) (pos : Nat) (s : State) : State :=
  raise c .streamer (.malformed sub) pos s

/-- Store the header; its length field sizes the body (R145, R149, R150). -/
def storeHeader (c : Cfg) (d : Bytes) (s : State) : State :=
  let s := { s with hdrBuf := Memory.ofBytes d }
  let toff := be32 d 4
  if toff ≤ hlen then fatalMalformed c .badToff 4 s
  else if c.bodyMax < toff - hlen then fatalMalformed c .tooLarge 4 s
  else { s with phase := .wBody }

/-- Store the body (R145). -/
def storeBody (d : Bytes) (s : State) : State :=
  { s with bodyBuf := Memory.ofBytes d, bodyLen := d.length, phase := .wTr1 }

/-- Store trailer segment 1; its `auth_size` sizes segment 2 (R145, R150). -/
def storeTr1 (c : Cfg) (toff : Nat) (d : Bytes) (s : State) : State :=
  let s := { s with tr1Buf := Memory.ofBytes d }
  if c.authMax < pad4 (be32 d 4) then fatalMalformed c .tooLarge (toff + 4) s
  else { s with phase := .wTr2 }

/-- Store trailer segment 2: the frame is complete (R145, R153). -/
def storeTr2 (d : Bytes) (s : State) : State :=
  { s with tr2Buf := Memory.ofBytes d, tr2Len := d.length, rawValid := true, phase := .done }

/-- `store_region(d)` (R145). -/
def storeRegion (c : Cfg) (d : Bytes) (s : State) : Host.Outcome State Fault Refusal :=
  match s.phase with
  | .wHdr => .next (storeHeader c d s)
  | .wBody => .next (storeBody d s)
  | .wTr1 =>
    match storedToff s with
    | none => .fault .byteWithoutValue
    | some toff => .next (storeTr1 c toff d s)
  | .wTr2 => .next (storeTr2 d s)
  | .idle => .next s
  | .done => .next s

/-! ## The poll step -/

/-- The clean cancel of R152, possible in `W_HDR` only. -/
def cancel (c : Cfg) (halt : Bool) (s : State) : State :=
  raise c .streamer (.cancelled (if halt then .halt else .intr)) 0 s

/-- The branch of R143 on which the bytes are not available (R144, R146, R147, R152, R272). -/
def pollUnavailable (c : Cfg) (halt intr : Bool) (s : State) : State :=
  if halt || intr then
    if s.phase = .wHdr then cancel c halt s
    else fatalDesync c (if halt then .haltMidframe else .intrMidframe) s
  else s

/-- The branch of R143 on which `n` bytes are available: read, advance, store; a short read is fatal (R148). -/
def pollRead (c : Cfg) (n : Nat) (short : Option Nat) (s : State) : Host.Outcome State Fault Refusal :=
  let d := streamRead n short s
  if d.length < n then .next (fatalDesync c .shortRead (consume d s))
  else storeRegion c d (consume d s)

/-- One poll step (R143). It is enabled only in a waiting phase; at other times the levels have no effect (R275; log 28). -/
def pollStep (c : Cfg) (halt intr : Bool) (short : Option Nat) (s : State) : Host.Outcome State Fault Refusal :=
  if s.phase.waiting then
    match needLen s with
    | none => .fault .byteWithoutValue
    | some n => if n ≤ streamAvail s then pollRead c n short s else .next (pollUnavailable c halt intr s)
  else .next s

end Sys2Proof.Machine
end

