-- ==== Sys2Proof/Machine/Envelope.lean ====
section
/-! DEFINITION. The frame envelope (42_header_trailer_crc.md): the dispatch to the body decoders and encoders, and the
commands `DECODE`, `VERIFY`, `DECODEBUF` and `ENCODE`. -/

namespace Sys2Proof.Machine

/-! ## Decoding -/

/-- `BODYDEC(ty, b)` (R177). -/
def bodyDec (c : Cfg) (realign : Bool) (ty : FrameType) (b : Bytes) : Res Body :=
  match ty with
  | .connectionRequest => asBody .connectionRequest (connReqDec b)
  | .connectionResponse => asBody .connectionResponse (connRspDec b)
  | .optionRequest => asBody .optionRequest (optReqDec b)
  | .optionResponse => asBody .optionResponse (optRspDec b)
  | .data => dataDec c realign b
  | .acknack => asBody .acknack (acknackDec b)
  | .alert => asBody .alert (alertDec b)
  | .commandRequest => asBody .commandRequest (cmdReqDec b)
  | .commandResponse => asBody .commandResponse (cmdRspDec b)
  | .cd1Encapsulation => asBody id (cd1EncapsulationDec b)
  | .customReset => asBody .customReset (customResetDec b)

/-- The body of `DECODE` from its `HDRDEC` line on, over the held regions (R178). -/
def decodeRegionsHeld (c : Cfg) (r : Regions) (s : State) : State :=
  runDecode c (hdrDec r.hdr) (fun ty => bodyDec c s.realign ty r.body) r.body.length (fun toff => trlDec toff r.tr1 r.tr2) s

/-- DECODE (R178): refused with `NO_FRAME` when no frame is held (R40). -/
def execDecode (s : State) : Host.Outcome State Fault Refusal :=
  if s.rawValid then
    match heldRegions s with
    | none => .fault .byteWithoutValue
    | some r => .next (decodeRegionsHeld Config.cfg r (beginDecode s))
  else .next (refuse Config.cfg .noFrame s)

/-- VERIFY (R172): refused with `NO_FRAME` unless a frame is held and decoded (R40). -/
def execVerify (s : State) : Host.Outcome State Fault Refusal :=
  if s.rawValid && s.decoded then
    match heldRegions s with
    | none => .fault .byteWithoutValue
    | some r => .next (checkCrc Config.cfg r.bytes (clearError s))
  else .next (refuse Config.cfg .noFrame s)

/-- The split of `DECODEBUF`, its checks in the order of R179. -/
def splitBuf (c : Cfg) (buf : Bytes) : Except Failure Regions :=
  if buf.length < hlen then .error (.shortField, 0)
  else
    let toff := be32 buf 4
    if toff ≤ hlen then .error (.badToff, 4)
    else if c.bodyMax < toff - hlen then .error (.tooLarge, 4)
    else if buf.length < toff + 8 then .error (.shortField, hlen)
    else
      let n := pad4 (be32 buf (toff + 4))
      if c.authMax < n then .error (.tooLarge, toff + 4)
      else if buf.length < toff + 16 + n then .error (.shortAuth, toff + 8)
      else .ok (regionsAt buf toff n)

/-- What an accepted `DECODEBUF` clears (R179). -/
def beginDecodebuf (s : State) : State := { beginDecode s with rawValid := false }

/-- A split check that fails: no frame is held (R179). -/
def failSplit (c : Cfg) (sub : MalformedSub) (pos : Nat) (s : State) : State :=
  { raise c .command (.malformed sub) pos s with phase := .idle }

/-- The verify stage of `DECODEBUF`, reached only by a frame that decoded (R179). -/
def verifyDecoded (c : Cfg) (r : Regions) (s : State) : State :=
  if s.decoded then checkCrc c r.bytes (clearError s) else s

/-- What an accepted `DECODEBUF` does: split, decode, verify (R179). -/
def decodeBuf (c : Cfg) (buf : Bytes) (s : State) : State :=
  match splitBuf c buf with
  | .error (sub, pos) => failSplit c sub pos (beginDecodebuf s)
  | .ok r => verifyDecoded c r (decodeRegionsHeld c r (setRegions r (beginDecodebuf s)))

/-- DECODEBUF (R179): refused with `BUSY` in a waiting phase (R40). -/
def execDecodebuf (buf : Bytes) (s : State) : Host.Outcome State Fault Refusal :=
  if s.phase.waiting then .next (refuse Config.cfg .busy s) else .next (decodeBuf Config.cfg buf s)

/-! ## Encoding -/

/-- The type tag of a variant (R28, R83). -/
def Variant.frameType : Variant → FrameType
  | .connectionRequest _ => .connectionRequest
  | .connectionResponse _ => .connectionResponse
  | .optionRequest _ => .optionRequest
  | .optionResponse _ => .optionResponse
  | .data _ => .data
  | .acknack _ => .acknack
  | .alert _ => .alert
  | .commandRequest _ => .commandRequest
  | .commandResponse _ => .commandResponse
  | .customReset _ => .customReset

/-- `BODYENC` (R83, R180). -/
def bodyEnc (c : Cfg) : Variant → Put
  | .connectionRequest r => connReqEnc r
  | .connectionResponse r => connRspEnc r
  | .optionRequest r => optReqEnc r
  | .optionResponse r => optRspEnc r
  | .data d => dataEnc c d
  | .acknack r => acknackEnc r
  | .alert r => alertEnc r
  | .commandRequest r => cmdReqEnc r
  | .commandResponse r => cmdRspEnc r
  | .customReset r => customResetEnc r

/-- The bytes of the timestamp field number `i` of a request: `TS_ENCODE` of the instant the request gives for it, if it
gives one; an instant that does not convert leaves a string that `PUTTS` rejects with `RANGE` (R131; log 11). -/
def stampAt (c : Cfg) (times : List (Option Instant)) (i : Nat) (own : Bytes) : Bytes :=
  match times[i]? with
  | some (some t) =>
    match c.tsEncode t with
    | some b => b.toList
    | none => []
  | _ => own

/-- `stampAt` for the subframes, the first one's timestamp being field number `i`. -/
def stampSubframes (c : Cfg) (times : List (Option Instant)) : Nat → List ChannelSubframe → List ChannelSubframe
  | _, [] => []
  | i, f :: fs => { f with timeStamp := stampAt c times i f.timeStamp } :: stampSubframes c times (i + 1) fs

/-- The variant with the request's instants converted, in wire order (R131). -/
def stampVariant (c : Cfg) (times : List (Option Instant)) : Variant → Variant
  | .data d =>
    .data { header := { d.header with nominalTime := stampAt c times 0 d.header.nominalTime }
            subframes := stampSubframes c times 1 d.subframes }
  | .commandRequest r => .commandRequest { r with timeStamp := stampAt c times 0 r.timeStamp }
  | .commandResponse r => .commandResponse { r with timeStamp := stampAt c times 0 r.timeStamp }
  | v => v

/-- The type tag of what a request carries; the raw form is that of an Acknack (R180, R224; log 18). -/
def requestTag : EncVariant → FrameType
  | .record v => Variant.frameType v
  | .rawAcknack _ _ _ _ _ => .acknack

/-- The record a request carries; the raw Acknack goes through `MKACKNACK` first (R224; log 18). -/
def resolveVariant (c : Cfg) (req : EncReq) : Except RejectSub Variant :=
  match req.variant with
  | .record v => .ok (stampVariant c req.times v)
  | .rawAcknack fs lo hi n flat =>
    match mkAcknack fs lo hi n flat with
    | .error e => .error e
    | .ok a => .ok (.acknack a)

/-- `HDRENC` (R162): the fields in wire order. -/
def hdrEnc (ty toff : Nat) (cr de : Bytes) (sq se : Nat) : Put :=
  putAll [putU32 ty, putU32 toff, putStr 8 cr, putStr 8 de, putU64 sq, putU32 se]

/-- `TRLBODY`: the trailer without its checksum (R167). -/
def trlBody (kid : Nat) (av : Bytes) : Put :=
  putAll [putU32 kid, putU32 av.length, putBytes (av ++ zeros (padlen av.length))]

/-- `CRCGEN` (R171). -/
def crcGen (c : Cfg) (hdr body trl : Bytes) : BitVec 64 := c.crc64 (hdr ++ body ++ trl ++ zeros ckLen)

/-- The whole frame of a request, or why it is rejected, in the order of R180 and R268: the type before all else, then
what `MKACKNACK` finds in a raw Acknack (R224; log 18), then the body. -/
def encodeFrame (c : Cfg) (req : EncReq) : Put :=
  if req.frameType ≠ (requestTag req.variant).code then .error .typeMismatch
  else
    match resolveVariant c req with
    | .error e => .error e
    | .ok v =>
      match bodyEnc c v with
      | .error e => .error e
      | .ok body =>
        if body.length = 0 ∨ 2 ^ 32 ≤ hlen + body.length then .error .badToff
        else
          match hdrEnc req.frameType (hlen + body.length) req.frameCreator req.frameDestination req.sequenceNumber req.series with
          | .error e => .error e
          | .ok hdr =>
            match trlBody req.authKeyId req.authValue with
            | .error e => .error e
            | .ok trl =>
              let out := hdr ++ body ++ trl ++ toBe 8 (crcGen c hdr body trl).toNat
              if c.txMax < out.length then .error .tooLarge else .ok out

/-- What an accepted `ENCODE` clears (R180). -/
def beginEncode (s : State) : State := { clearError s with txValid := false, crcChecked := false, crcOk := false }

/-- Offer a frame to the transport (R39, R69). -/
def setTx (out : Bytes) (s : State) : State := { s with txBuf := Memory.ofBytes out, txLen := out.length, txValid := true }

/-- What an accepted `ENCODE` does: every check comes before `TXBUF` is written (R180, R268). -/
def encodeReq (c : Cfg) (req : EncReq) (s : State) : State :=
  match encodeFrame c req with
  | .error e => raise c .command (.rejected e) 0 (beginEncode s)
  | .ok out => setTx out (beginEncode s)

/-- ENCODE (R180): refused with `BUSY` in a waiting phase (R40). -/
def execEncode (req : EncReq) (s : State) : Host.Outcome State Fault Refusal :=
  if s.phase.waiting then .next (refuse Config.cfg .busy s) else .next (encodeReq Config.cfg req s)

end Sys2Proof.Machine
end

