-- ==== Sys2Proof/Machine/System.lean ====
section
/-! DEFINITION. `NOP`, `RESET`, the reserved command codes, and the host operations that are no commands: register reads
and writes by number and reads through the result port (60_exceptions.md §7, 70_reset_and_hazards.md §1, R41, R44). -/

namespace Sys2Proof.Machine

/-- NOP (R280): nothing changes, not even `CAUSE`. -/
def execNop (s : State) : Host.Outcome State Fault Refusal := .next s

/-- RESET (R291): every element of `S` takes its reset value and the instance is bound to a fresh stream; what the host
still has to do and what it has read are not the block's. -/
def execReset (fresh : Bytes) (s : State) : Host.Outcome State Fault Refusal :=
  .next { State.reset with stream := fresh, inputs := s.inputs, result := s.result }

/-- A reserved command code (R281). -/
def reservedCommand (c : Cfg) (s : State) : State := refuse c .badCommand s

/-- RESERVED_CMD_6 (R281). -/
def execReservedCmd6 (s : State) : Host.Outcome State Fault Refusal := .next (reservedCommand Config.cfg s)

/-- RESERVED_CMD_7 (R281). -/
def execReservedCmd7 (s : State) : Host.Outcome State Fault Refusal := .next (reservedCommand Config.cfg s)

/-- RESERVED_CMD_8 (R281). -/
def execReservedCmd8 (s : State) : Host.Outcome State Fault Refusal := .next (reservedCommand Config.cfg s)

/-- RESERVED_CMD_9 (R281). -/
def execReservedCmd9 (s : State) : Host.Outcome State Fault Refusal := .next (reservedCommand Config.cfg s)

/-- RESERVED_CMD_10 (R281). -/
def execReservedCmd10 (s : State) : Host.Outcome State Fault Refusal := .next (reservedCommand Config.cfg s)

/-- RESERVED_CMD_11 (R281). -/
def execReservedCmd11 (s : State) : Host.Outcome State Fault Refusal := .next (reservedCommand Config.cfg s)

/-- RESERVED_CMD_12 (R281). -/
def execReservedCmd12 (s : State) : Host.Outcome State Fault Refusal := .next (reservedCommand Config.cfg s)

/-- RESERVED_CMD_13 (R281). -/
def execReservedCmd13 (s : State) : Host.Outcome State Fault Refusal := .next (reservedCommand Config.cfg s)

/-- RESERVED_CMD_14 (R281). -/
def execReservedCmd14 (s : State) : Host.Outcome State Fault Refusal := .next (reservedCommand Config.cfg s)

/-! ## Host operations -/

/-- `CsrRead(n)`: the value goes to the host, nothing else changes (R41, R282). -/
def csrRead (c : Cfg) (n : Nat) (s : State) : State := { s with result := .word (s.csr c n) }

/-- `CsrWrite(n, v)`: only register 0 is writable, and only in `IDLE` or `DONE`; every other write is ignored (R30, R41). -/
def csrWrite (n : Nat) (v : BitVec 32) (s : State) : State :=
  if n = 0 ∧ s.phase.waiting = false then { s with cfg := cfgWritable v } else s

/-- May the host read this register now (R44)? The regions of a frame being read are readable once consumed. -/
def readable (s : State) : ResultReg → Bool
  | .hType => s.hdrValid | .hToff => s.hdrValid | .hCreator => s.hdrValid
  | .hDest => s.hdrValid | .hSeq => s.hdrValid | .hSeries => s.hdrValid
  | .tKeyid => s.decoded | .tAuthsz => s.decoded | .tAuthval => s.decoded | .tCksum => s.decoded
  | .variant => s.decoded
  | .skipList => true
  | .hdrBuf => s.rawValid || s.phase == .wBody || s.phase == .wTr1 || s.phase == .wTr2
  | .bodyBuf => s.rawValid || s.phase == .wTr1 || s.phase == .wTr2
  | .tr1Buf => s.rawValid || s.phase == .wTr2
  | .tr2Buf => s.rawValid
  | .txBuf => s.txValid
  | .sampleRateHz _ => s.decoded
  | .endTime _ => s.decoded

/-- The subframe at a place of `V`, if `V` is a Data record that has one (R231). What a host reads of the derived fields
at any other place the spec does not say: no value (DESIGN CHOICE, log 31). -/
def subframeAt (s : State) (place : Nat) : Option ChannelSubframe :=
  match s.v with
  | .data d => d.subframes[place]?
  | _ => none

/-- The first `n` bytes of a buffer as a host value. -/
def bufferValue (m : Memory) (n : Nat) : Option HostValue := (Memory.load m 0 n).map .bytes

/-- What a readable register delivers; `none` where a byte has no value. A derived field (R245, R246) read at a place where
`V` holds no subframe delivers no value and does not fault (DESIGN CHOICE, log 31). -/
def resultValue (c : Cfg) (s : State) : ResultReg → Option HostValue
  | .hType => some (.word s.hType)
  | .hToff => some (.word s.hToff)
  | .hCreator => some (.bytes s.hCreator)
  | .hDest => some (.bytes s.hDest)
  | .hSeq => some (.long s.hSeq)
  | .hSeries => some (.word s.hSeries)
  | .tKeyid => some (.word s.tKeyid)
  | .tAuthsz => some (.word s.tAuthsz)
  | .tAuthval => some (.bytes s.tAuthval)
  | .tCksum => some (.long s.tCksum)
  | .variant => some (.variant s.v)
  | .skipList => some (.skips s.skipList)
  | .hdrBuf => bufferValue s.hdrBuf hlen
  | .bodyBuf => bufferValue s.bodyBuf s.bodyLen
  | .tr1Buf => bufferValue s.tr1Buf tr1Len
  | .tr2Buf => bufferValue s.tr2Buf s.tr2Len
  | .txBuf => bufferValue s.txBuf s.txLen
  | .sampleRateHz place => some (.rational ((subframeAt s place).bind sampleRateHz))
  | .endTime place => some (.rational ((subframeAt s place).bind (endTime c)))

/-- A host read through the result port: an invalid register faults, it never reads zero or a stale frame (R44). The read
of `TXBUF` is also how the transport takes the encoder's bytes, and changes nothing of the block (R39; DESIGN CHOICE,
log 32). -/
def readResult (c : Cfg) (r : ResultReg) (s : State) : Host.Outcome State Fault Refusal :=
  if readable s r then
    match resultValue c s r with
    | some x => .next { s with result := x }
    | none => .fault .byteWithoutValue
  else .fault (.invalidRead r)

end Sys2Proof.Machine
end

