-- ==== Sys2Proof/Machine/Dispatch.lean ====
section
/-! DEFINITION. One arm per row of the opcode table. -/

namespace Sys2Proof.Machine

/-- The meaning of an instruction. -/
def exec (i : Instr) (s : State) : Host.Outcome State Fault Refusal :=
  match i with
  | .connreq f => Sys2Proof.Machine.execConnreq f s
  | .connrsp f => Sys2Proof.Machine.execConnrsp f s
  | .optreq f => Sys2Proof.Machine.execOptreq f s
  | .optrsp f => Sys2Proof.Machine.execOptrsp f s
  | .data f => Sys2Proof.Machine.execData f s
  | .acknack f => Sys2Proof.Machine.execAcknack f s
  | .alert f => Sys2Proof.Machine.execAlert f s
  | .cmdreq f => Sys2Proof.Machine.execCmdreq f s
  | .cmdrsp f => Sys2Proof.Machine.execCmdrsp f s
  | .cd1encap f => Sys2Proof.Machine.execCd1encap f s
  | .customreset f => Sys2Proof.Machine.execCustomreset f s
  | .nop => Sys2Proof.Machine.execNop s
  | .rdframe => Sys2Proof.Machine.execRdframe s
  | .decode => Sys2Proof.Machine.execDecode s
  | .verify => Sys2Proof.Machine.execVerify s
  | .encode req => Sys2Proof.Machine.execEncode req s
  | .decodebuf buf => Sys2Proof.Machine.execDecodebuf buf s
  | .reset fresh => Sys2Proof.Machine.execReset fresh s
  | .reservedCmd6 => Sys2Proof.Machine.execReservedCmd6 s
  | .reservedCmd7 => Sys2Proof.Machine.execReservedCmd7 s
  | .reservedCmd8 => Sys2Proof.Machine.execReservedCmd8 s
  | .reservedCmd9 => Sys2Proof.Machine.execReservedCmd9 s
  | .reservedCmd10 => Sys2Proof.Machine.execReservedCmd10 s
  | .reservedCmd11 => Sys2Proof.Machine.execReservedCmd11 s
  | .reservedCmd12 => Sys2Proof.Machine.execReservedCmd12 s
  | .reservedCmd13 => Sys2Proof.Machine.execReservedCmd13 s
  | .reservedCmd14 => Sys2Proof.Machine.execReservedCmd14 s

end Sys2Proof.Machine
end

