-- ==== Sys2Proof/Machine/Fetch.lean ====
section
/-! DEFINITION. Which instruction the next command runs: a frame is fetched from the region buffers when `DECODE` is
issued on a held frame, every other command from the command port (R3, R67; log 5), and the placing of a word of the
opcode table where that fetch finds it (log 4, 7). -/

namespace Sys2Proof.Machine

/-- The frame in the region buffers as an instruction, if one is held and it decodes (R25, R83). -/
def heldInstr (s : State) : Option Instr :=
  if s.rawValid then
    match heldRegions s with
    | none => none
    | some r =>
      match decodeRegions r with
      | .ok i => some i
      | .error _ => none
  else none

/-- The instruction that a command runs: `DECODE` on a held frame runs that frame, where it is one of R83. -/
def fetchCommand (c : Command) (s : State) : Instr :=
  if decodeCommand c = .decode then (heldInstr s).getD .decode else decodeCommand c

/-- The instruction of the next step, if the next move is a command. -/
def fetch (s : State) : Option Instr :=
  match s.inputs with
  | .command c :: _ => some (fetchCommand c s)
  | _ => none

/-- Put a command at the front of the host's moves. -/
def withCommand (c : Command) (s : State) : State := { s with inputs := .command c :: s.inputs }

/-- Hold the frame of the given bytes as the streamer or `DECODEBUF` would leave it. -/
def withHeldBytes (b : Bytes) (s : State) : State :=
  match splitFrame b with
  | .ok (r, _) => setRegions r s
  | .error _ => s

end Sys2Proof.Machine
end

