-- ==== Sys2Proof/Machine/Step.lean ====
section
/-! DEFINITION. One step: the next move of the host or the transport, or, when none is pending, a poll step of the
streamer with both cancellation levels 0 (R18, R63; log 3, 4). -/

namespace Sys2Proof.Machine

/-- One step. A move is taken off the list and then made; a command runs the instruction that `fetchCommand` names. -/
def step (s : State) : Host.Outcome State Fault Refusal :=
  match s.inputs with
  | [] => pollStep Config.cfg false false none s
  | .command c :: rest => exec (fetchCommand c s) { s with inputs := rest }
  | .poll halt intr short :: rest => pollStep Config.cfg halt intr short { s with inputs := rest }
  | .arrive n :: rest => .next (arrive Config.cfg n { s with inputs := rest })
  | .csrRead n :: rest => .next (csrRead Config.cfg n { s with inputs := rest })
  | .csrWrite n v :: rest => .next (csrWrite n v { s with inputs := rest })
  | .readResult r :: rest => readResult Config.cfg r { s with inputs := rest }

/-- The state with a word of the opcode table placed where the next step runs it: at most 8 bits are a command on the
command port, more are a frame in the region buffers with `DECODE` on the command port (log 4, 7). -/
def State.withFetchWord (s : State) (nbits w : Nat) : State :=
  if nbits ≤ 8 then withCommand (Command.plain (BitVec.ofNat 4 w)) s
  else withCommand (Command.plain 2) (withHeldBytes (tableFrame nbits w) s)

end Sys2Proof.Machine
end

