-- ==== Sys2Proof/Safety.lean ====
section
/-! DEFINITION. What a safe state is: the relations between the elements of `S` that the spec states, as one invariant
of the machine, and the regions of one complete frame. -/

namespace Sys2Proof.Machine

/-- The four regions are those of one complete frame that fits the buffers (R51, R84, R150). -/
structure CompleteFrame (c : Cfg) (r : Regions) : Prop where
  /-- the header has `HLEN` bytes -/
  hdr_length : r.hdr.length = hlen
  /-- the body has at least one byte -/
  body_pos : 0 < r.body.length
  /-- the trailer starts right after the body -/
  toff_eq : be32 r.hdr 4 = hlen + r.body.length
  /-- the body fits `BODYBUF` -/
  body_fits : r.body.length ≤ c.bodyMax
  /-- trailer segment 1 has 8 bytes -/
  tr1_length : r.tr1.length = tr1Len
  /-- trailer segment 2 has the length `auth_size` gives it -/
  tr2_length : r.tr2.length = pad4 (be32 r.tr1 4) + ckLen
  /-- the authentication value fits `TR2BUF` -/
  auth_fits : pad4 (be32 r.tr1 4) ≤ c.authMax

/-- Where the streamer stands in each waiting phase: what it has stored, and `SPOS` relative to `FSTART` (R21, R22, R142). -/
def ReadProgress (c : Cfg) (s : State) : Prop :=
  match s.phase with
  | .idle => True
  | .wHdr => s.spos = s.fstart
  | .wBody => ∃ h, Memory.load s.hdrBuf 0 hlen = some h ∧ hlen < be32 h 4 ∧ be32 h 4 - hlen ≤ c.bodyMax
      ∧ s.spos = s.fstart + BitVec.ofNat 64 hlen
  | .wTr1 => ∃ h b, Memory.load s.hdrBuf 0 hlen = some h ∧ Memory.load s.bodyBuf 0 s.bodyLen = some b
      ∧ be32 h 4 = hlen + s.bodyLen ∧ 0 < s.bodyLen ∧ s.bodyLen ≤ c.bodyMax
      ∧ s.spos = s.fstart + BitVec.ofNat 64 (be32 h 4)
  | .wTr2 => ∃ h b t, Memory.load s.hdrBuf 0 hlen = some h ∧ Memory.load s.bodyBuf 0 s.bodyLen = some b
      ∧ be32 h 4 = hlen + s.bodyLen ∧ 0 < s.bodyLen ∧ s.bodyLen ≤ c.bodyMax
      ∧ Memory.load s.tr1Buf 0 tr1Len = some t ∧ pad4 (be32 t 4) ≤ c.authMax
      ∧ s.spos = s.fstart + BitVec.ofNat 64 (be32 h 4 + tr1Len)
  | .done => True

/-- The invariant of the machine. -/
structure Inv (c : Cfg) (s : State) : Prop where
  /-- every buffer is in canonical form -/
  mem_wf : Memory.wf s.hdrBuf ∧ Memory.wf s.bodyBuf ∧ Memory.wf s.tr1Buf ∧ Memory.wf s.tr2Buf ∧ Memory.wf s.txBuf
  /-- `DONE` is the phase with a held frame (R21, R25) -/
  done_iff : s.phase = .done ↔ s.rawValid = true
  /-- a held frame is complete (R25) -/
  held : s.rawValid = true → ∃ r, heldRegions s = some r ∧ CompleteFrame c r
  /-- the streamer stands where its phase says -/
  reading : ReadProgress c s
  /-- no frame read is in progress on an invalid stream (R24, R40) -/
  desync_not_waiting : s.desync = true → s.phase.waiting = false
  /-- valid header registers belong to a held frame (R26) -/
  hdr_held : s.hdrValid = true → s.rawValid = true
  /-- the legal values of the header registers (R26) -/
  hdr_legal : s.hdrValid = true → FrameType.ofCode s.hType.toNat ≠ none ∧ s.hToff.toNat = hlen + s.bodyLen
    ∧ hlen < s.hToff.toNat ∧ nameOk s.hCreator = true ∧ nameOk s.hDest = true
  /-- a decoded frame has a valid header (R28) -/
  decoded_hdr : s.decoded = true → s.hdrValid = true
  /-- "header's frame_type must equal the variant's own type tag" (R28, R176) -/
  tag_eq : s.decoded = true → FrameType.ofCode s.hType.toNat = some (Variant.frameType s.v)
  /-- the authentication register is padded (R27) -/
  auth_length : s.decoded = true → s.tAuthval.length = pad4 s.tAuthsz.toNat ∧ s.tr2Len = s.tAuthval.length + ckLen
  /-- only a decoded frame is checked (R40, R172) -/
  crc_decoded : s.crcChecked = true → s.decoded = true
  /-- `CRC_OK` reads as 0 while `CRC_CHECKED` is 0 (R29) -/
  crc_ok : s.crcOk = true → s.crcChecked = true
  /-- "DEGRADED = 1 if and only if SKIPLIST is not empty" (R35) -/
  degraded_iff : s.degraded = true ↔ s.skipList ≠ []
  /-- the reserved bits of `CFG` read as 0 (R30) -/
  cfg_reserved : s.cfg &&& 0xFFFFFFFE#32 = 0
  /-- the reserved bits of `WARN` read as 0 (R33) -/
  warn_reserved : s.warn &&& 0xFFFFFFF8#32 = 0
  /-- `CAUSE` holds 0 or an aborting cause (R261) -/
  cause_legal : s.cause = 0 ∨ s.cause = 1 ∨ s.cause = 2 ∨ s.cause = 3 ∨ s.cause = 6 ∨ s.cause = 7
  /-- "Sub-code 0 is never written with a non-zero CAUSE" (R262); without an error all three are 0 (R32) -/
  cause_sub : (s.cause = 0 ↔ s.subcause = 0) ∧ (s.cause = 0 → s.epos = 0)
  /-- what is offered to the transport is a frame that fits `TXBUF` (R39, R84, R180) -/
  tx : s.txValid = true → 53 ≤ s.txLen ∧ s.txLen ≤ c.txMax ∧ ∃ b, Memory.load s.txBuf 0 s.txLen = some b
  /-- the transport's buffer never exceeds `FIFO_DEPTH` (R52) -/
  fifo_bound : s.fifo.length ≤ c.fifoDepth

end Sys2Proof.Machine
end

