-- ==== Sys2Proof/Certificates/Slice0/Obligations.lean ====
section
/-! DEFINITION. The statements for the provers. First the states that the statements name, written out field by field
from the rules; then one definition per statement. -/

namespace Sys2Proof.Claims

open Sys2Proof.Machine

/-! ## States written out from the rules -/

/-- What a frame with operands `f` leaves when its body gives `b` and uses `k` bytes: header registers (R161), `V`,
`SKIPLIST`, `DEGRADED`, `WARN` (R178, R209, R248), trailer registers (R166), the flags that `DECODE` clears. -/
def delivered (t : FrameType) (f : Frame) (b : Body) (k : Nat) (s : State) : State :=
  { s with
    cause := 0, subcause := 0, epos := 0
    hType := BitVec.ofNat 32 t.code, hToff := f.trailerOffset, hCreator := f.creator, hDest := f.destination
    hSeq := f.sequence, hSeries := f.series, hdrValid := true
    v := b.v, skipList := b.skips, degraded := !b.skips.isEmpty
    warn := b.warn ||| (if k = f.body.length then 0 else 1)
    tKeyid := f.authKeyId, tAuthsz := f.authSize, tAuthval := f.authValue, tCksum := f.checksum, decoded := true
    crcChecked := false, crcOk := false }

/-- What a frame leaves whose header passes and whose body fails with `sub` at body offset `pos` (R178, R262, R270). -/
def rejectedBody (t : FrameType) (f : Frame) (sub : MalformedSub) (pos : Nat) (s : State) : State :=
  { s with
    cause := 3, subcause := sub.code, epos := BitVec.ofNat 32 (36 + pos)
    hType := BitVec.ofNat 32 t.code, hToff := f.trailerOffset, hCreator := f.creator, hDest := f.destination
    hSeq := f.sequence, hSeries := f.series, hdrValid := true
    decoded := false, crcChecked := false, crcOk := false, degraded := false, skipList := [], warn := 0 }

/-- What `DECODE` and `DECODEBUF` leave at the start, with the error registers at the given values (R178, R270). -/
def cleared (cause sub : BitVec 8) (epos : BitVec 32) (s : State) : State :=
  { s with
    cause := cause, subcause := sub, epos := epos
    hdrValid := false, decoded := false, crcChecked := false, crcOk := false, degraded := false, skipList := [], warn := 0 }

/-- The state with the header registers as the held header gives them (R81, R161). -/
def withHeader (h : Bytes) (s : State) : State :=
  { s with
    hType := BitVec.ofNat 32 (be32 h 0), hToff := BitVec.ofNat 32 (be32 h 4)
    hCreator := rstrip (slice h 8 8), hDest := rstrip (slice h 16 8)
    hSeq := BitVec.ofNat 64 (be64 h 24), hSeries := BitVec.ofNat 32 (be32 h 32), hdrValid := true }

/-- The state with the body taken in and the trailer registers as the held trailer gives them (R82, R166, R178). -/
def withBodyAndTrailer (r : Regions) (b : Body) (k : Nat) (s : State) : State :=
  { s with
    v := b.v, skipList := b.skips, degraded := !b.skips.isEmpty
    warn := b.warn ||| (if k = r.body.length then 0 else 1)
    tKeyid := BitVec.ofNat 32 (be32 r.tr1 0), tAuthsz := BitVec.ofNat 32 (be32 r.tr1 4)
    tAuthval := slice r.tr2 0 (pad4 (be32 r.tr1 4)), tCksum := BitVec.ofNat 64 (be64 r.tr2 (pad4 (be32 r.tr1 4)))
    decoded := true }

/-- A refused command: the three registers and nothing else (R40, R269). -/
def refusedWith (sub : BitVec 8) (s : State) : State := { s with cause := 7, subcause := sub, epos := 0 }

/-- A rejected `ENCODE`: the three registers and the three flags its acceptance clears (R180, R268). -/
def rejectedWith (sub : BitVec 8) (s : State) : State :=
  { s with cause := 6, subcause := sub, epos := 0, txValid := false, crcChecked := false, crcOk := false }

/-- A frame offered in `TXBUF` (R39, R180). -/
def offered (out : Bytes) (s : State) : State :=
  { s with
    cause := 0, subcause := 0, epos := 0, crcChecked := false, crcOk := false
    txBuf := Memory.ofBytes out, txLen := out.length, txValid := true }

/-- A fatal end of a frame read (R147 to R150, R270). -/
def fatalEnd (cause sub : BitVec 8) (epos : BitVec 32) (s : State) : State :=
  { s with cause := cause, subcause := sub, epos := epos, desync := true, phase := .idle, rawValid := false }

/-- The state after a complete frame with regions `r` has been read off the transport, `rest` being what is left (R145, R153). -/
def frameRead (r : Regions) (rest : Bytes) (s : State) : State :=
  { s with
    hdrBuf := Memory.ofBytes r.hdr, bodyBuf := Memory.ofBytes r.body, bodyLen := r.body.length
    tr1Buf := Memory.ofBytes r.tr1, tr2Buf := Memory.ofBytes r.tr2, tr2Len := r.tr2.length
    rawValid := true, phase := .done
    spos := s.spos + BitVec.ofNat 64 r.bytes.length, fifo := rest }

/-- Every byte of the four region buffers and their lengths are as before. -/
def SameRegions (s t : State) : Prop :=
  (∀ a, Memory.read t.hdrBuf a = Memory.read s.hdrBuf a) ∧ (∀ a, Memory.read t.bodyBuf a = Memory.read s.bodyBuf a)
    ∧ (∀ a, Memory.read t.tr1Buf a = Memory.read s.tr1Buf a) ∧ (∀ a, Memory.read t.tr2Buf a = Memory.read s.tr2Buf a)
    ∧ t.bodyLen = s.bodyLen ∧ t.tr2Len = s.tr2Len

/-- Every byte of `TXBUF`, its length and its flag are as before. -/
def SameOutput (s t : State) : Prop :=
  (∀ a, Memory.read t.txBuf a = Memory.read s.txBuf a) ∧ t.txLen = s.txLen ∧ t.txValid = s.txValid

/-- The streamer's registers, `CFG` and the environment's side of the ports are as before. -/
def SameStreamSide (s t : State) : Prop :=
  t.phase = s.phase ∧ t.spos = s.spos ∧ t.fstart = s.fstart ∧ t.desync = s.desync ∧ t.rawValid = s.rawValid ∧ t.cfg = s.cfg
    ∧ t.fifo = s.fifo ∧ t.stream = s.stream ∧ t.inputs = s.inputs ∧ t.result = s.result

/-- A boolean byte that the encoder can write: 0 or 1 (R123, R181). -/
def CanonicalBool (x : BoolByte) : Prop := x.raw = 0 ∨ x.raw = 1

/-- The variant's boolean bytes are ones the encoder can write. -/
def CanonicalVariant : Variant → Prop
  | .data d => ∀ f ∈ d.subframes, CanonicalBool f.authenticationOn ∧ CanonicalBool f.isCalib
  | _ => True

/-- The characters of an encodable string (R127). -/
def Ascii (s : Bytes) : Prop := ∀ x ∈ s, 1 ≤ x.toNat ∧ x.toNat ≤ 127

/-- A string that `PUTSTR` writes into a field of `w` bytes (R127). -/
def FitsField (w : Nat) (x : Bytes) : Prop := x.length ≤ w ∧ Ascii x

/-- `x` is what a request gives for its timestamp field number `i`, whose own bytes are `own`: the converted instant, or
the own bytes where the request gives no instant (R131; log 11). -/
def GivenStamp (c : Cfg) (req : EncReq) (i : Nat) (own x : Bytes) : Prop :=
  ((req.times[i]? = none ∨ req.times[i]? = some none) → x = own)
  ∧ ∀ t y, req.times[i]? = some (some t) → c.tsEncode t = some y → x = y.toList

/-- Single-byte sensitivity of the Checksum Engine, the one property of it that a claim may assume (R9). -/
def SingleByteSensitive (crc : Bytes → BitVec 64) : Prop :=
  ∀ (pre suf : Bytes) (x y : Byte), x ≠ y → crc (pre ++ x :: suf) ≠ crc (pre ++ y :: suf)

/-- Where record number `i` of an option body begins: after the count, each record is its type, its size and its padded
value (R195; the layout is PRESUMED, log 14). -/
def optionAt (b : Bytes) : Nat → Nat
  | 0 => 4
  | i + 1 => optionAt b i + 8 + pad4 (be32 b (optionAt b i + 4))

/-- Where the loop of R248 stands before slot `i`: its cursor, and whether it still looks for subframes. After a subframe
it is right behind the bytes that one used (R249); after a failed slot behind its declared `channel_length`, if that
place is in the body; else it has given up and stays. -/
def slotAt (c : Cfg) (b : Bytes) (start : Nat) : Nat → Nat × Bool
  | 0 => (start, true)
  | i + 1 =>
    match slotAt c b start i with
    | (o, false) => (o, false)
    | (o, true) =>
      match csfDec c b o with
      | .ok _ o' => (o', true)
      | .fail _ _ => if o + 4 ≤ b.length ∧ o + 4 + be32 b o ≤ b.length then (o + 4 + be32 b o, true) else (o, false)

/-- The subframe in slot `i`, if it decodes (R248). -/
def slotFrame (c : Cfg) (b : Bytes) (start i : Nat) : Option ChannelSubframe :=
  match slotAt c b start i with
  | (_, false) => none
  | (o, true) =>
    match csfDec c b o with
    | .ok f _ => some f
    | .fail _ _ => none

/-- The skip record of slot `i`, if it does not decode: its own reason, or `SHORT_FIELD` once the loop has given up (R248). -/
def slotSkip (c : Cfg) (b : Bytes) (start i : Nat) : Option SkipRecord :=
  match slotAt c b start i with
  | (o, false) => some { index := i, subcause := 4, offset := o }
  | (o, true) =>
    match csfDec c b o with
    | .ok _ _ => none
    | .fail sub _ => some { index := i, subcause := sub.code, offset := o }

/-- Slot `i` decodes and the bytes it used differ from 4 and its `channel_length` (R249). -/
def SlotLengthDiffers (c : Cfg) (b : Bytes) (start i : Nat) : Prop :=
  ∃ o f o', slotAt c b start i = (o, true) ∧ csfDec c b o = .ok f o' ∧ o' - o ≠ 4 + f.channelLength

/-- The next step delivers `y` to the host and changes nothing else. -/
def Delivers (s : State) (rest : List Input) (y : HostValue) : Prop :=
  Sys2Proof.Machine.step s = .next { s with inputs := rest, result := y }

/-- The next move is a command with one of the given codes. -/
def NextIsCommand (codes : List (BitVec 4)) (s : State) : Prop :=
  ∃ c rest, s.inputs = .command c :: rest ∧ c.code ∈ codes

end Sys2Proof.Claims

open Sys2Proof Sys2Proof.Machine Sys2Proof.Claims

/-! ## Encoding -/

/-- Decode and encode agree on every well-formed instruction, every operand at every value the encoding admits. -/
def Obligations.DecodeUndoesEncode : Prop :=
  ∀ i : Instr, i.wellFormed = true → decodeWord (encode i) = .ok i

/-- The bytes of a well-formed frame, whatever follows them, decode to that frame and leave what follows. -/
def Obligations.FrameBytesDecodeBack : Prop :=
  ∀ (t : FrameType) (f : Frame) (rest : Bytes), f.wellFormed = true →
    decodeFrame ((f.regions t).bytes ++ rest) = .ok (t.instr f, rest)

/-- No bit of a frame is dropped: the regions a frame decodes from are the ones it encodes to; and where the trailer
offset agrees with a body of at least one byte, the instruction is well-formed. -/
def Obligations.EncodeUndoesDecode : Prop :=
  ∀ (r : Regions) (i : Instr), decodeRegions r = .ok i →
    encode i = .frame r ∧ (be32 r.hdr 4 = 36 + r.body.length → 0 < r.body.length → i.wellFormed = true)

/-- Words written out from the spec: the frame V3 of the test vectors, and command codes of R38. That a table word of a
command has empty arguments is the model's choice (DESIGN CHOICE, log 6), and so is how a table word is laid out as a
frame (DESIGN CHOICE, log 7). -/
def Obligations.SpecWordsDecode : Prop :=
  decodeFrame ([0x00, 0x00, 0x00, 0x1A, 0x00, 0x00, 0x00, 0x25] ++ zeros 16 ++ zeros 12
      ++ [0xFF] ++ zeros 8 ++ [0x00, 0x00, 0x00, 0x00, 0x00, 0x00, 0x01, 0x3E])
    = .ok (.customreset
        { trailerOffset := 37, creator := [], destination := [], sequence := 0, series := 0, body := [0xFF]
          authKeyId := 0, authSize := 0, authValue := [], checksum := 0x13E }, [])
  ∧ decodeTableWord 4 0 = some .nop ∧ decodeTableWord 4 1 = some .rdframe ∧ decodeTableWord 4 15 = some (.reset [])
  ∧ decodeTableWord 32 10 = none

/-- The type codes are the eleven of R83. A held frame with any other type word is no instruction, and `DECODE` raises
`BAD_TYPE` at offset 0; the header registers keep their values, the raw frame stays held and the stream is not touched. -/
def Obligations.UnknownTypeIsBadType : Prop :=
  (∀ n t, FrameType.ofCode n = some t ↔ n = t.code)
  ∧ ∀ (s : State) (r : Regions), s.rawValid = true → heldRegions s = some r →
    be32 r.hdr 0 ∉ [1, 2, 3, 4, 5, 6, 7, 8, 9, 13, 26] →
    (∀ i, decodeRegions r ≠ .ok i) ∧ exec .decode s = .next (cleared 3 1 0 s)

/-! ## Field primitives -/

/-- `pad4` is the least multiple of 4 that is not below its argument, `padlen` the difference, and a variable field
takes its length prefix and `pad4` of its value on the wire. -/
def Obligations.Pad4IsTheLeastMultiple : Prop :=
  (∀ k, 4 ∣ pad4 k ∧ k ≤ pad4 k ∧ ∀ m, 4 ∣ m → k ≤ m → pad4 k ≤ m)
  ∧ (∀ k, padlen k = pad4 k - k ∧ padlen k ∈ [0, 1, 2, 3])
  ∧ ∀ v out, putVar v = .ok out → out.length = 4 + pad4 v.length

/-- A field that does not fit fails with `SHORT_FIELD` at the cursor, on naturals, and one that fits is read whole;
`GETVAR` fails at its prefix when that is short and right after it when value and padding are. -/
def Obligations.FieldsThatDoNotFitFail : Prop :=
  ∀ (b : Bytes) (o n : Nat),
    (getUInt n b o = .fail .shortField o ↔ b.length < o + n)
    ∧ (getBytes b o n = .fail .shortField o ↔ b.length < o + n)
    ∧ (skip b o n = .fail .shortField o ↔ b.length < o + n)
    ∧ (getStr n b o = .fail .shortField o ↔ b.length < o + n)
    ∧ (∀ sub p, getUInt n b o = .fail sub p → sub = .shortField ∧ p = o)
    ∧ (∀ v o', getUInt n b o = .ok v o' → o' = o + n ∧ o' ≤ b.length)
    ∧ (∀ v o', getBytes b o n = .ok v o' → o' = o + n ∧ o' ≤ b.length ∧ v.length = n ∧ ∀ i, i < n → v[i]? = b[o + i]?)
    ∧ (b.length < o + 4 → getVar b o = .fail .shortField o)
    ∧ (o + 4 ≤ b.length → b.length < o + 4 + pad4 (be32 b o) → getVar b o = .fail .shortField (o + 4))
    ∧ (o + 4 + pad4 (be32 b o) ≤ b.length →
        ∃ v, getVar b o = .ok v (o + 4 + pad4 (be32 b o)) ∧ v.length = be32 b o
          ∧ ∀ i, i < be32 b o → v[i]? = b[o + 4 + i]?)

/-- Integers written by the aligner read back, in any surroundings; a value out of range is rejected and writes nothing. -/
def Obligations.IntegersRoundTrip : Prop :=
  (∀ (n v : Nat) (pre suf : Bytes), v < 256 ^ n →
      ∃ out, putUInt n v = .ok out ∧ out.length = n ∧ getUInt n (pre ++ out ++ suf) pre.length = .ok v (pre.length + n))
  ∧ (∀ (n v : Nat), 256 ^ n ≤ v → putUInt n v = .error .range)
  ∧ (∀ (v : Int) (pre suf : Bytes), -(2 ^ 63) ≤ v → v < 2 ^ 63 →
      ∃ out, putI64 v = .ok out ∧ out.length = 8 ∧ getI64 (pre ++ out ++ suf) pre.length = .ok v (pre.length + 8))
  ∧ ∀ v : Int, (v < -(2 ^ 63) ∨ 2 ^ 63 ≤ v) → putI64 v = .error .range

/-- A string that fits and is ASCII, and a variable field whatever its padding bytes hold, read back in any surroundings; a
longer string is rejected as too long, one with another byte as a bad character. -/
def Obligations.StringsAndVariableFieldsRoundTrip : Prop :=
  (∀ (w : Nat) (x pre suf : Bytes), x.length ≤ w → Ascii x →
      ∃ out, putStr w x = .ok out ∧ out.length = w ∧ getStr w (pre ++ out ++ suf) pre.length = .ok x (pre.length + w))
  ∧ (∀ (w : Nat) (x : Bytes), w < x.length → putStr w x = .error .strTooLong)
  ∧ (∀ (w : Nat) (x : Bytes), x.length ≤ w → ¬ Ascii x → putStr w x = .error .strBadChar)
  ∧ (∀ v pre suf : Bytes, v.length < 2 ^ 32 →
      ∃ out, putVar v = .ok out ∧ getVar (pre ++ out ++ suf) pre.length = .ok v (pre.length + out.length))
  ∧ ∀ v padding pre suf : Bytes, v.length < 2 ^ 32 → padding.length = padlen v.length →
      getVar (pre ++ (toBe 4 v.length ++ v ++ padding) ++ suf) pre.length = .ok v (pre.length + 4 + pad4 v.length)

/-- An enumerated byte passes exactly when it is in its code set; a boolean byte always passes and is kept as it is. -/
def Obligations.EnumAndBooleanBytes : Prop :=
  ∀ (pre suf : Bytes) (x : Byte) (codes : List Byte),
    (x ∈ codes → getEnum codes (pre ++ x :: suf) pre.length = .ok x (pre.length + 1))
    ∧ (x ∉ codes → getEnum codes (pre ++ x :: suf) pre.length = .fail .badEnum pre.length)
    ∧ (∃ y, getBool (pre ++ x :: suf) pre.length = .ok y (pre.length + 1) ∧ y.raw = x ∧ (y.val = true ↔ x = 1))

/-! ## Bodies -/

/-- The fields of connection, option, command and alert bodies stand at the offsets of the adopted layouts (PRESUMED, log
14); a connection body of fewer than 32 bytes, and an option body that holds fewer records than its count, fails at the
first field that does not fit. -/
def Obligations.ControlBodyLayouts : Prop :=
  (∀ b : Bytes, 32 ≤ b.length →
    connReqDec b = .ok
      { majorVersion := beNat (slice b 0 2), minorVersion := beNat (slice b 2 2), stationName := rstrip (slice b 4 8)
        stationType := rstrip (slice b 12 4), serviceType := rstrip (slice b 16 4), ipAddress := be32 b 20
        port := beNat (slice b 24 2), secondIpAddress := be32 b 26, secondPort := beNat (slice b 30 2) } 32
    ∧ connRspDec b = .ok
      { majorVersion := beNat (slice b 0 2), minorVersion := beNat (slice b 2 2), responderName := rstrip (slice b 4 8)
        responderType := rstrip (slice b 12 4), serviceType := rstrip (slice b 16 4), ipAddress := be32 b 20
        port := beNat (slice b 24 2), secondIpAddress := be32 b 26, secondPort := beNat (slice b 30 2) } 32)
  ∧ (∀ b : Bytes, b.length < 32 →
      ∃ o w, (o, w) ∈ [(0, 2), (2, 2), (4, 8), (12, 4), (16, 4), (20, 4), (24, 2), (26, 4), (30, 2)] ∧ o ≤ b.length
        ∧ b.length < o + w ∧ connReqDec b = .fail .shortField o ∧ connRspDec b = .fail .shortField o)
  ∧ (∀ (b : Bytes) (xs : List OptionRecord), 4 ≤ b.length → optionAt b (be32 b 0) ≤ b.length →
    xs = (List.range (be32 b 0)).map (fun i =>
      { optionType := be32 b (optionAt b i), value := slice b (optionAt b i + 8) (be32 b (optionAt b i + 4)) }) →
    optReqDec b = .ok { options := xs } (optionAt b (be32 b 0)) ∧ optRspDec b = .ok { options := xs } (optionAt b (be32 b 0)))
  ∧ (∀ b : Bytes, b.length < 4 → optReqDec b = .fail .shortField 0 ∧ optRspDec b = .fail .shortField 0)
  ∧ (∀ b : Bytes, 4 ≤ b.length → b.length < optionAt b (be32 b 0) →
      ∃ i p, i < be32 b 0 ∧ optionAt b i ≤ b.length ∧ b.length < optionAt b (i + 1)
        ∧ p = (if b.length < optionAt b i + 4 then optionAt b i
               else if b.length < optionAt b i + 8 then optionAt b i + 4 else optionAt b i + 8)
        ∧ optReqDec b = .fail .shortField p ∧ optRspDec b = .fail .shortField p)
  ∧ (∀ b : Bytes, 42 + pad4 (be32 b 38) ≤ b.length →
    cmdReqDec b = .ok
      { stationName := rstrip (slice b 0 8), siteName := rstrip (slice b 8 5), channelName := rstrip (slice b 13 3)
        locationName := rstrip (slice b 16 2), timeStamp := slice b 18 20, commandMessage := slice b 42 (be32 b 38) }
      (42 + pad4 (be32 b 38)))
  ∧ (∀ b : Bytes, 42 + pad4 (be32 b 38) + 4 + pad4 (be32 b (42 + pad4 (be32 b 38))) ≤ b.length →
    cmdRspDec b = .ok
      { responderStation := rstrip (slice b 0 8), siteName := rstrip (slice b 8 5), channelName := rstrip (slice b 13 3)
        locationName := rstrip (slice b 16 2), timeStamp := slice b 18 20, commandRequestMessage := slice b 42 (be32 b 38)
        responseMessage := slice b (46 + pad4 (be32 b 38)) (be32 b (42 + pad4 (be32 b 38))) }
      (42 + pad4 (be32 b 38) + 4 + pad4 (be32 b (42 + pad4 (be32 b 38)))))
  ∧ ∀ b : Bytes, 4 + pad4 (be32 b 0) ≤ b.length →
      alertDec b = .ok { message := slice b 4 (be32 b 0) } (4 + pad4 (be32 b 0))

/-- The fields of an Acknack body, the gaps included, stand at the offsets of R220 (the 4 bytes of `gap_count` are PRESUMED,
log 16); a body that holds fewer gaps than its
count fails with `SHORT_FIELD`. -/
def Obligations.AcknackLayout : Prop :=
  (∀ b : Bytes, 40 + 16 * be32 b 36 ≤ b.length →
    acknackDec b = .ok
      { framesetAcked := rstrip (slice b 0 20), lowestSeqNum := sext64 (be64 b 20), highestSeqNum := sext64 (be64 b 28)
        gapRanges := (List.range (be32 b 36)).map fun i => (sext64 (be64 b (40 + 16 * i)), sext64 (be64 b (48 + 16 * i))) }
      (40 + 16 * be32 b 36))
  ∧ ∀ b : Bytes, (b.length < 40 ∨ b.length < 40 + 16 * be32 b 36) → ∃ p, p ≤ b.length ∧ acknackDec b = .fail .shortField p

/-- A channel subframe that decodes: every field stands at the offset of R236 (widths PRESUMED, log 16) and the bytes used
are `SFLEN`. One that fails does so in three ways only, each at the offset of the field at fault. -/
def Obligations.SubframeLayoutAndFailures : Prop :=
  (∀ (c : Cfg) (b : Bytes) (s o : Nat) (f : ChannelSubframe), csfDec c b s = .ok f o →
    f.channelLength = be32 b s ∧ f.authOffset = be32 b (s + 4)
    ∧ slice b (s + 8) 4 = [f.authenticationOn.raw, f.compressionFormat, f.sensorType, f.isCalib.raw]
    ∧ f.compressionFormat ∈ c.compressionCodes ∧ f.sensorType ∈ c.sensorCodes
    ∧ f.siteName = rstrip (slice b (s + 12) 5) ∧ f.channelName = rstrip (slice b (s + 17) 3)
    ∧ f.locationName = rstrip (slice b (s + 20) 2) ∧ f.dataType = rstrip (slice b (s + 22) 2)
    ∧ blank f.siteName = false ∧ blank f.channelName = false
    ∧ f.calibrationFactor.toNat = be32 b (s + 24) ∧ f.calibrationPeriod.toNat = be32 b (s + 28)
    ∧ f.timeStamp = slice b (s + 32) 20 ∧ f.subframeTimeLengthMs = be32 b (s + 52) ∧ f.sampleCount = be32 b (s + 56)
    ∧ f.channelStatusData = slice b (s + 64) (be32 b (s + 60))
    ∧ (∀ j, j = pad4 f.channelStatusData.length →
        f.channelData = slice b (s + 68 + j) (be32 b (s + 64 + j))
        ∧ ∀ k, k = j + pad4 f.channelData.length →
          f.subframeCount = be32 b (s + 68 + k) ∧ f.authKeyId = be32 b (s + 72 + k)
          ∧ f.authValue = slice b (s + 80 + k) (be32 b (s + 76 + k)))
    ∧ o = s + sflen f ∧ o ≤ b.length)
  ∧ ∀ (c : Cfg) (b : Bytes) (s p : Nat) (sub : MalformedSub), csfDec c b s = .fail sub p →
    (sub = .shortField ∧ s ≤ p ∧ (s ≤ b.length → p ≤ b.length))
    ∨ (sub = .badEnum ∧ (p = s + 9 ∨ p = s + 10))
    ∨ (sub = .blankField ∧ (p = s + 12 ∨ p = s + 17))

/-- What the encoder of a body other than `Data` writes its decoder reads back, using all of it. The lengths 32 and 40 + 16
per gap are those of the adopted layouts (PRESUMED, log 14, and log 16 for the width of the gap count). -/
def Obligations.PlainBodiesRoundTrip : Prop :=
  (∀ r out, connReqEnc r = .ok out → out.length = 32 ∧ connReqDec out = .ok r 32)
  ∧ (∀ r out, connRspEnc r = .ok out → out.length = 32 ∧ connRspDec out = .ok r 32)
  ∧ (∀ r out, optReqEnc r = .ok out → optReqDec out = .ok r out.length)
  ∧ (∀ r out, optRspEnc r = .ok out → optRspDec out = .ok r out.length)
  ∧ (∀ r out, acknackEnc r = .ok out → out.length = 40 + 16 * r.gapRanges.length ∧ acknackDec out = .ok r out.length)
  ∧ (∀ r out, alertEnc r = .ok out → alertDec out = .ok r out.length)
  ∧ (∀ r out, cmdReqEnc r = .ok out → cmdReqDec out = .ok r out.length)
  ∧ (∀ r out, cmdRspEnc r = .ok out → cmdRspDec out = .ok r out.length)
  ∧ ∀ r out, customResetEnc r = .ok out → customResetDec out = .ok r out.length

/-- `MKACKNACK` rejects an odd flat array and a count other than half its length, else pairs the array up. An `ENCODE` of
a raw form that it rejects is rejected with `BAD_GAPS`, but for another type than 6, which is reported first (how R224
and R268 go together: DEDUCED, log 18); one that it accepts encodes as the record it builds. No wire input makes the
decoder report `BAD_GAPS`. -/
def Obligations.RawGapArraysAreChecked : Prop :=
  (∀ (fs : Bytes) (lo hi : Int) (n : Nat) (flat : List Int),
    (flat.length % 2 ≠ 0 → mkAcknack fs lo hi n flat = .error .badGaps)
    ∧ (n ≠ flat.length / 2 → mkAcknack fs lo hi n flat = .error .badGaps)
    ∧ (flat.length = 2 * n →
        ∃ a, mkAcknack fs lo hi n flat = .ok a ∧ a.framesetAcked = fs ∧ a.lowestSeqNum = lo ∧ a.highestSeqNum = hi
          ∧ a.gapRanges.length = n
          ∧ ∀ i, i < n → ∃ x y, flat[2 * i]? = some x ∧ flat[2 * i + 1]? = some y ∧ a.gapRanges[i]? = some (x, y)))
  ∧ (∀ (req : EncReq) (s : State) (fs : Bytes) (lo hi : Int) (n : Nat) (flat : List Int),
      s.phase.waiting = false → req.variant = .rawAcknack fs lo hi n flat →
      (req.frameType ≠ 6 → exec (.encode req) s = .next (rejectedWith 1 s))
      ∧ (req.frameType = 6 → mkAcknack fs lo hi n flat = .error .badGaps → exec (.encode req) s = .next (rejectedWith 7 s))
      ∧ ∀ a, mkAcknack fs lo hi n flat = .ok a →
          exec (.encode req) s = exec (.encode { req with variant := .record (.acknack a) }) s)
  ∧ ∀ (b : Bytes) (sub : MalformedSub) (p : Nat), acknackDec b = .fail sub p → sub ≠ .badGaps

/-- What the Data encoder writes its decoder reads back at both settings of `CFG.REALIGN`, without skips and warnings. -/
def Obligations.DataRoundTrip : Prop :=
  ∀ (c : Cfg) (realign : Bool) (d : DataFrame) (out : Bytes), dataEnc c d = .ok out → CanonicalVariant (.data d) →
    dataDec c realign out = .ok { v := .data d, skips := [], warn := 0 } out.length

/-- A Data body slot by slot: the header's fields at their offsets, `W_REALIGN` exactly when `CFG.REALIGN` is 1 and four null
bytes follow the header, the subframes and the skip records of the slots from there on in order, each slot where the
rule for the one before puts it, `W_CHLEN` exactly when a decoded slot used another length than declared. Every
declared slot is in the list or in `SKIPLIST`, and the decoder never passes the end of the body. Only the channel
subframe header can fail the whole body: a field that does not fit, or a channel string count that is not ten times the
channel count. -/
def Obligations.DataSlotsAreAccountedFor : Prop :=
  (∀ (c : Cfg) (realign : Bool) (b : Bytes) (x : Body) (o : Nat), dataDec c realign b = .ok x o →
    ∃ (d : DataFrame) (h start : Nat), x.v = .data d ∧ h = 32 + pad4 (be32 b 28)
      ∧ d.header = { numChannels := be32 b 0, frameTimeLengthMs := be32 b 4, nominalTime := slice b 8 20
                     channelString := slice b 32 (be32 b 28) }
      ∧ start = (if realign = true ∧ h + 4 ≤ b.length ∧ slice b h 4 = [0, 0, 0, 0] then h + 4 else h)
      ∧ d.subframes = (List.range d.header.numChannels).filterMap (slotFrame c b start)
      ∧ x.skips = (List.range d.header.numChannels).filterMap (slotSkip c b start)
      ∧ o = (slotAt c b start d.header.numChannels).1
      ∧ (x.warn.getLsbD 1 = true ↔ ∃ i, i < d.header.numChannels ∧ SlotLengthDiffers c b start i)
      ∧ (x.warn.getLsbD 2 = true ↔ start = h + 4) ∧ (∀ j, j ≠ 1 → j ≠ 2 → x.warn.getLsbD j = false)
      ∧ d.subframes.length + x.skips.length = d.header.numChannels
      ∧ (x.skips.map SkipRecord.index).Pairwise (· < ·) ∧ (∀ k ∈ x.skips, k.index < d.header.numChannels ∧ k.offset ≤ b.length)
      ∧ 10 * d.header.numChannels ≤ b.length ∧ o ≤ b.length)
  ∧ (∀ (c : Cfg) (realign : Bool) (b : Bytes) (sub : MalformedSub) (p : Nat), dataDec c realign b = .fail sub p →
      (sub = .shortField ∧ p ≤ b.length ∧ (b.length < 32 ∨ b.length < 32 + pad4 (be32 b 28)))
      ∨ (sub = .badChanstr ∧ p = 28 ∧ 32 ≤ b.length ∧ be32 b 28 ≠ 10 * be32 b 0))
  ∧ ∀ (c : Cfg) (realign : Bool) (b : Bytes), 32 ≤ b.length → be32 b 28 ≠ 10 * be32 b 0 →
      dataDec c realign b = .fail .badChanstr 28

/-! ## Frames as instructions -/

/-- A control frame whose body decodes is delivered: the header and trailer registers, `V`, the flags, and nothing else.
A CustomReset frame always is: its whole body is the blob, and it resets nothing. -/
def Obligations.ControlFramesAreDelivered : Prop :=
  ∀ (f : Frame) (s : State), f.wellFormed = true →
    (∀ r k, connReqDec f.body = .ok r k → exec (.connreq f) s
      = .next (delivered .connectionRequest f { v := .connectionRequest r, skips := [], warn := 0 } k s))
    ∧ (∀ r k, connRspDec f.body = .ok r k → exec (.connrsp f) s
      = .next (delivered .connectionResponse f { v := .connectionResponse r, skips := [], warn := 0 } k s))
    ∧ (∀ r k, optReqDec f.body = .ok r k → exec (.optreq f) s
      = .next (delivered .optionRequest f { v := .optionRequest r, skips := [], warn := 0 } k s))
    ∧ (∀ r k, optRspDec f.body = .ok r k → exec (.optrsp f) s
      = .next (delivered .optionResponse f { v := .optionResponse r, skips := [], warn := 0 } k s))
    ∧ (∀ r k, alertDec f.body = .ok r k → exec (.alert f) s
      = .next (delivered .alert f { v := .alert r, skips := [], warn := 0 } k s))
    ∧ (∀ r k, cmdReqDec f.body = .ok r k → exec (.cmdreq f) s
      = .next (delivered .commandRequest f { v := .commandRequest r, skips := [], warn := 0 } k s))
    ∧ (∀ r k, cmdRspDec f.body = .ok r k → exec (.cmdrsp f) s
      = .next (delivered .commandResponse f { v := .commandResponse r, skips := [], warn := 0 } k s))
    ∧ exec (.customreset f) s
      = .next (delivered .customReset f { v := .customReset { blob := f.body }, skips := [], warn := 0 } f.body.length s)

/-- An Acknack frame whose body holds all its gaps is delivered with the record that the decoder gives, each field and gap
from its offset (the 4 bytes of `gap_count` are PRESUMED, log 16); `W_BODYLEN` is set when the body is longer. -/
def Obligations.AcknackIsDelivered : Prop :=
  ∀ (f : Frame) (s : State), f.wellFormed = true → 40 + 16 * be32 f.body 36 ≤ f.body.length →
    ∃ a : Acknack, acknackDec f.body = .ok a (40 + 16 * be32 f.body 36)
      ∧ a.framesetAcked = rstrip (slice f.body 0 20)
      ∧ a.lowestSeqNum = sext64 (be64 f.body 20) ∧ a.highestSeqNum = sext64 (be64 f.body 28)
      ∧ a.gapRanges = (List.range (be32 f.body 36)).map (fun i =>
          (sext64 (be64 f.body (40 + 16 * i)), sext64 (be64 f.body (48 + 16 * i))))
      ∧ exec (.acknack f) s
        = .next (delivered .acknack f { v := .acknack a, skips := [], warn := 0 } (40 + 16 * be32 f.body 36) s)

/-- A Data frame whose header decodes is delivered, degraded or not, with the record, the skip records, the warnings and the
cursor that the decoder gives at the setting of `CFG.REALIGN`; fewer subframes than declared exactly when degraded. -/
def Obligations.DataIsDelivered : Prop :=
  ∀ (f : Frame) (s : State), f.wellFormed = true → 32 + pad4 (be32 f.body 28) ≤ f.body.length →
    be32 f.body 28 = 10 * be32 f.body 0 →
    ∃ b k, ∃ d : DataFrame, dataDec Config.cfg s.realign f.body = .ok b k
      ∧ b.v = .data d ∧ d.header.numChannels = be32 f.body 0
      ∧ d.header.nominalTime = slice f.body 8 20 ∧ d.header.channelString = slice f.body 32 (be32 f.body 28)
      ∧ d.subframes.length ≤ d.header.numChannels ∧ (d.subframes.length = d.header.numChannels ↔ b.skips = [])
      ∧ exec (.data f) s = .next (delivered .data f b k s)

/-- The reserved type 13 passes the header and is refused at the body: `UNSUPPORTED_TYPE` at `EPOS = HLEN`. -/
def Obligations.ReservedTypeIsUnsupported : Prop :=
  ∀ (f : Frame) (s : State), f.wellFormed = true →
    exec (.cd1encap f) s = .next (rejectedBody .cd1Encapsulation f .unsupportedType 0 s)

/-- A frame whose body decoder fails is rejected at the frame offset of the field at fault, which `EPOS` always holds. -/
def Obligations.MalformedBodiesAreRejected : Prop :=
  ∀ (f : Frame) (s : State) (sub : MalformedSub) (p : Nat), f.wellFormed = true →
    (connReqDec f.body = .fail sub p → 36 + p < 2 ^ 32 ∧ exec (.connreq f) s = .next (rejectedBody .connectionRequest f sub p s))
    ∧ (connRspDec f.body = .fail sub p → 36 + p < 2 ^ 32 ∧ exec (.connrsp f) s = .next (rejectedBody .connectionResponse f sub p s))
    ∧ (optReqDec f.body = .fail sub p → 36 + p < 2 ^ 32 ∧ exec (.optreq f) s = .next (rejectedBody .optionRequest f sub p s))
    ∧ (optRspDec f.body = .fail sub p → 36 + p < 2 ^ 32 ∧ exec (.optrsp f) s = .next (rejectedBody .optionResponse f sub p s))
    ∧ (acknackDec f.body = .fail sub p → 36 + p < 2 ^ 32 ∧ exec (.acknack f) s = .next (rejectedBody .acknack f sub p s))
    ∧ (alertDec f.body = .fail sub p → 36 + p < 2 ^ 32 ∧ exec (.alert f) s = .next (rejectedBody .alert f sub p s))
    ∧ (cmdReqDec f.body = .fail sub p → 36 + p < 2 ^ 32 ∧ exec (.cmdreq f) s = .next (rejectedBody .commandRequest f sub p s))
    ∧ (cmdRspDec f.body = .fail sub p → 36 + p < 2 ^ 32 ∧ exec (.cmdrsp f) s = .next (rejectedBody .commandResponse f sub p s))
    ∧ (dataDec Config.cfg s.realign f.body = .fail sub p →
        36 + p < 2 ^ 32 ∧ exec (.data f) s = .next (rejectedBody .data f sub p s))

/-- Every frame, well-formed or not, takes a next state that differs from the one before only in what a decode writes:
no buffer byte, no stream register, no output, no `CFG`. -/
def Obligations.FramesWriteOnlyDecodeResults : Prop :=
  ∀ (t : FrameType) (f : Frame) (s : State),
    ∃ u, exec (t.instr f) s = .next u ∧ SameStreamSide s u ∧ SameRegions s u ∧ SameOutput s u
      ∧ u.crcChecked = false ∧ u.crcOk = false ∧ (u.decoded = true ↔ u.cause = 0)

/-! ## Commands -/

/-- `NOP` changes nothing; a reserved code writes the three error registers and nothing else. -/
def Obligations.NopAndReservedCodes : Prop :=
  ∀ s : State, exec .nop s = .next s
    ∧ exec .reservedCmd6 s = .next (refusedWith 4 s) ∧ exec .reservedCmd7 s = .next (refusedWith 4 s)
    ∧ exec .reservedCmd8 s = .next (refusedWith 4 s) ∧ exec .reservedCmd9 s = .next (refusedWith 4 s)
    ∧ exec .reservedCmd10 s = .next (refusedWith 4 s) ∧ exec .reservedCmd11 s = .next (refusedWith 4 s)
    ∧ exec .reservedCmd12 s = .next (refusedWith 4 s) ∧ exec .reservedCmd13 s = .next (refusedWith 4 s)
    ∧ exec .reservedCmd14 s = .next (refusedWith 4 s)

/-- A command whose precondition fails writes the three error registers and nothing else, with the sub-code of R40. -/
def Obligations.RefusedCommands : Prop :=
  ∀ (s : State) (req : EncReq) (buf : Bytes),
    (s.phase.waiting = true → exec .rdframe s = .next (refusedWith 1 s) ∧ exec (.encode req) s = .next (refusedWith 1 s)
      ∧ exec (.decodebuf buf) s = .next (refusedWith 1 s))
    ∧ (s.phase.waiting = false → s.desync = true → exec .rdframe s = .next (refusedWith 2 s))
    ∧ (s.rawValid = false → exec .decode s = .next (refusedWith 3 s))
    ∧ ((s.rawValid = false ∨ s.decoded = false) → exec .verify s = .next (refusedWith 3 s))

/-- `RDFRAME`, command code 1, in `IDLE` or `DONE` on a valid stream starts a frame read and consumes nothing; else it is
refused. -/
def Obligations.RdframeStartsAFrameRead : Prop :=
  (∀ c : Command, c.code = 1 → decodeCommand c = .rdframe)
  ∧ (∀ s : State, s.phase.waiting = false → s.desync = false → exec .rdframe s = .next
      { s with
        cause := 0, subcause := 0, epos := 0, rawValid := false, hdrValid := false, decoded := false
        crcChecked := false, crcOk := false, bodyLen := 0, tr2Len := 0, fstart := s.spos, phase := .wHdr })
  ∧ (∀ s : State, (s.phase.waiting = true ∨ s.desync = true) →
      exec .rdframe s = .next (refusedWith (if s.phase.waiting then 1 else 2) s))
  ∧ ∃ t, exec .rdframe State.reset = .next t ∧ t.phase = .wHdr ∧ t.fstart = 0 ∧ t.status.getLsbD 0 = true

/-- `DECODE` of a held frame whose three stages pass: every register from its place in the held bytes. -/
def Obligations.DecodeDeliversTheHeldFrame : Prop :=
  ∀ (s : State) (r : Regions) (ty : FrameType) (b : Body) (k : Nat),
    s.rawValid = true → heldRegions s = some r → be32 r.hdr 0 = ty.code → 36 < be32 r.hdr 4 →
    bodyDec Config.cfg s.realign ty r.body = .ok b k → pad4 (be32 r.tr1 4) + 8 ≤ r.tr2.length →
    exec .decode s = .next (withBodyAndTrailer r b k (withHeader r.hdr (cleared 0 0 0 s)))

/-- `DECODE` reports the first stage that fails: the type, then the trailer offset, then the body at its frame offset,
then the trailer; an `EPOS` beyond 32 bits is a free value (DESIGN CHOICE, log 8). -/
def Obligations.DecodeReportsTheFirstFailure : Prop :=
  ∀ (s : State) (r : Regions), s.rawValid = true → heldRegions s = some r →
    ((∀ ty : FrameType, be32 r.hdr 0 ≠ ty.code) → exec .decode s = .next (cleared 3 1 0 s))
    ∧ ∀ ty : FrameType, be32 r.hdr 0 = ty.code →
      (be32 r.hdr 4 ≤ 36 → exec .decode s = .next (cleared 3 2 4 s))
      ∧ (36 < be32 r.hdr 4 →
        (∀ sub p, bodyDec Config.cfg s.realign ty r.body = .fail sub p → exec .decode s
          = .next (withHeader r.hdr (cleared 3 sub.code (eposOf Config.cfg (36 + p)) s)))
        ∧ (∀ b k, bodyDec Config.cfg s.realign ty r.body = .ok b k → r.tr2.length < pad4 (be32 r.tr1 4) + 8 →
          ∃ u, exec .decode s = .next u ∧ u.cause = 3 ∧ u.subcause = 10 ∧ u.epos = eposOf Config.cfg (be32 r.hdr 4 + 8)
            ∧ u.hdrValid = true ∧ u.decoded = false ∧ SameStreamSide s u ∧ SameRegions s u ∧ SameOutput s u))

/-- `DECODE` runs the frame that the region buffers hold. -/
def Obligations.DecodeRunsTheHeldFrame : Prop :=
  ∀ (s : State) (i : Instr), heldInstr s = some i → exec .decode s = exec i s

/-- What a decode leaves depends on the held bytes and `CFG.REALIGN` alone, not on flags or results of an earlier frame. -/
def Obligations.DecodeForgetsEarlierFrames : Prop :=
  ∀ s s' t : State, s.rawValid = true → s'.rawValid = true → heldRegions s = heldRegions s' → s.realign = s'.realign →
    exec .decode s = .next t →
    ∃ t', exec .decode s' = .next t' ∧ t'.hdrValid = t.hdrValid ∧ t'.decoded = t.decoded
      ∧ t'.cause = t.cause ∧ t'.subcause = t.subcause ∧ t'.epos = t.epos ∧ t'.warn = t.warn
      ∧ t'.degraded = t.degraded ∧ t'.skipList = t.skipList ∧ t'.crcChecked = t.crcChecked ∧ t'.crcOk = t.crcOk
      ∧ (t.hdrValid = true → t'.hType = t.hType ∧ t'.hToff = t.hToff ∧ t'.hCreator = t.hCreator ∧ t'.hDest = t.hDest
          ∧ t'.hSeq = t.hSeq ∧ t'.hSeries = t.hSeries)
      ∧ (t.decoded = true → t'.v = t.v ∧ t'.tKeyid = t.tKeyid ∧ t'.tAuthsz = t.tAuthsz ∧ t'.tAuthval = t.tAuthval
          ∧ t'.tCksum = t.tCksum)

/-- `VERIFY` hashes the received frame with its last 8 bytes replaced by zero and compares with the stored checksum; a
mismatch is no error: the decoded frame stays as it is. -/
def Obligations.VerifyComparesTheReceivedBytes : Prop :=
  ∀ (s : State) (r : Regions), s.rawValid = true → s.decoded = true → heldRegions s = some r →
    exec .verify s = .next
      { s with
        cause := 0, subcause := 0, epos := 0, crcChecked := true
        crcOk := Config.cfg.crc64 (r.bytes.take (r.bytes.length - 8) ++ zeros 8) == s.tCksum }

/-- The checksum finds a change: of two frames whose bytes differ in exactly one place before the checksum and whose stored
checksums are equal, or whose bytes before the checksum are equal and whose stored checksums differ, at most one
verifies. Rests on single-byte sensitivity of the Checksum Engine, the property R9 allows a claim to assume. -/
def Obligations.ChecksumFindsAChange : Prop :=
  (∀ (s : State) (r : Regions), s.rawValid = true → s.decoded = true → heldRegions s = some r →
    ∃ t, exec .verify s = .next t ∧ t.crcOk = (checkCrc Config.cfg r.bytes s).crcOk)
  ∧ ∀ c : Cfg, SingleByteSensitive c.crc64 → ∀ (s s' : State) (raw raw' : Bytes),
    ((∃ pre suf x y, x ≠ y ∧ 8 ≤ suf.length ∧ raw = pre ++ x :: suf ∧ raw' = pre ++ y :: suf ∧ s'.tCksum = s.tCksum)
      ∨ (raw.length = raw'.length ∧ raw.take (raw.length - 8) = raw'.take (raw.length - 8) ∧ s'.tCksum ≠ s.tCksum)) →
    (checkCrc c raw s).crcOk = true → (checkCrc c raw' s').crcOk = false

/-- `ENCODE` of a request that fits serialises header, body, trailer and checksum into `TXBUF`, byte by byte as R162,
R167, R171 and R180 say, and touches nothing of the receive side. The record encoded is the request's own with its
instants converted (in wire order: DESIGN CHOICE, log 11), or the Acknack built from its raw form. -/
def Obligations.EncodeOffersTheFrame : Prop :=
  (∀ (c : Cfg) (req : EncReq),
    (∀ v, req.variant = .record v → ∃ w, resolveVariant c req = .ok w
      ∧ (∀ d, v = .data d → ∃ (x : Bytes) (fs : List ChannelSubframe),
          w = .data { header := { d.header with nominalTime := x }, subframes := fs }
          ∧ GivenStamp c req 0 d.header.nominalTime x ∧ fs.length = d.subframes.length
          ∧ ∀ i f, d.subframes[i]? = some f →
              ∃ y, fs[i]? = some { f with timeStamp := y } ∧ GivenStamp c req (i + 1) f.timeStamp y)
      ∧ (∀ r, v = .commandRequest r → ∃ x, w = .commandRequest { r with timeStamp := x } ∧ GivenStamp c req 0 r.timeStamp x)
      ∧ (∀ r, v = .commandResponse r → ∃ x, w = .commandResponse { r with timeStamp := x } ∧ GivenStamp c req 0 r.timeStamp x)
      ∧ (Variant.frameType v ∉ [.data, .commandRequest, .commandResponse] → w = v))
    ∧ ∀ fs lo hi n flat a, req.variant = .rawAcknack fs lo hi n flat → mkAcknack fs lo hi n flat = .ok a →
        resolveVariant c req = .ok (.acknack a))
  ∧ ∀ (s : State) (req : EncReq) (v : Variant) (body : Bytes),
    s.phase.waiting = false → resolveVariant Config.cfg req = .ok v → req.frameType = (Variant.frameType v).code →
    bodyEnc Config.cfg v = .ok body → 0 < body.length → 36 + body.length < 2 ^ 32 →
    FitsField 8 req.frameCreator → FitsField 8 req.frameDestination →
    req.sequenceNumber < 2 ^ 64 → req.series < 2 ^ 32 → req.authKeyId < 2 ^ 32 → req.authValue.length < 2 ^ 32 →
    36 + body.length + 16 + pad4 req.authValue.length ≤ Config.cfg.txMax →
    ∀ front : Bytes,
      front = toBe 4 req.frameType ++ toBe 4 (36 + body.length)
        ++ (req.frameCreator ++ zeros (8 - req.frameCreator.length))
        ++ (req.frameDestination ++ zeros (8 - req.frameDestination.length))
        ++ toBe 8 req.sequenceNumber ++ toBe 4 req.series ++ body
        ++ toBe 4 req.authKeyId ++ toBe 4 req.authValue.length ++ req.authValue ++ zeros (padlen req.authValue.length) →
      ∃ out, out = front ++ toBe 8 (Config.cfg.crc64 (front ++ zeros 8)).toNat
        ∧ exec (.encode req) s = .next (offered out s) ∧ ∀ a, Memory.read (offered out s).txBuf a = out[a]?

/-- A rejected `ENCODE` offers nothing and changes nothing else. In order: a type that is not the tag of the request's
variant (for a raw Acknack another type than 6, whatever its gap array: DEDUCED, log 18), the body's reason, a body that
is empty or too long for `trailer_offset`, creator, destination, sequence number, series, key id, length of the
authentication value, `TX_MAX`. A nominal time or a command's timestamp given as an instant that does not convert is
rejected with `RANGE`, where no earlier field is at fault; with such an instant for a subframe the request is rejected,
with one sub-code or another (DESIGN CHOICE, log 11). -/
def Obligations.EncodeRejections : Prop :=
  (∀ (s : State) (req : EncReq), s.phase.waiting = false → exec (.encode req) s = .next (encodeReq Config.cfg req s))
  ∧ (∀ (c : Cfg) (s : State) (req : EncReq),
    (∀ v, req.variant = .record v → req.frameType ≠ (Variant.frameType v).code → encodeReq c req s = rejectedWith 1 s)
    ∧ (∀ fs lo hi n flat, req.variant = .rawAcknack fs lo hi n flat → req.frameType ≠ 6 → encodeReq c req s = rejectedWith 1 s)
    ∧ (req.frameType = 13 → encodeReq c req s = rejectedWith 1 s))
  ∧ (∀ (c : Cfg) (s : State) (req : EncReq) (v : Variant), resolveVariant c req = .ok v →
    req.frameType = (Variant.frameType v).code →
    (∀ e, bodyEnc c v = .error e → encodeReq c req s = rejectedWith e.code s)
    ∧ ∀ body, bodyEnc c v = .ok body →
      ((body = [] ∨ 2 ^ 32 ≤ 36 + body.length) → encodeReq c req s = rejectedWith 2 s)
      ∧ (0 < body.length → 36 + body.length < 2 ^ 32 →
        (8 < req.frameCreator.length → encodeReq c req s = rejectedWith 4 s)
        ∧ (req.frameCreator.length ≤ 8 → ¬ Ascii req.frameCreator → encodeReq c req s = rejectedWith 5 s)
        ∧ (FitsField 8 req.frameCreator →
          (8 < req.frameDestination.length → encodeReq c req s = rejectedWith 4 s)
          ∧ (req.frameDestination.length ≤ 8 → ¬ Ascii req.frameDestination → encodeReq c req s = rejectedWith 5 s)
          ∧ (FitsField 8 req.frameDestination →
            ((2 ^ 64 ≤ req.sequenceNumber ∨ 2 ^ 32 ≤ req.series ∨ 2 ^ 32 ≤ req.authKeyId ∨ 2 ^ 32 ≤ req.authValue.length) →
              encodeReq c req s = rejectedWith 3 s)
            ∧ (req.sequenceNumber < 2 ^ 64 → req.series < 2 ^ 32 → req.authKeyId < 2 ^ 32 →
              req.authValue.length < 2 ^ 32 → c.txMax < 36 + body.length + 16 + pad4 req.authValue.length →
              encodeReq c req s = rejectedWith 10 s)))))
  ∧ ∀ (c : Cfg) (s : State) (req : EncReq) (t : Instant), c.tsEncode t = none →
    (∀ d, req.variant = .record (.data d) → req.frameType = 5 →
      (req.times[0]? = some (some t) → encodeReq c req s = rejectedWith 3 s)
      ∧ ∀ i, i < d.subframes.length → req.times[i + 1]? = some (some t) → ∃ sub, encodeReq c req s = rejectedWith sub s)
    ∧ (∀ r, req.variant = .record (.commandRequest r) → req.frameType = 8 → req.times[0]? = some (some t) →
      FitsField 8 r.stationName → FitsField 5 r.siteName → FitsField 3 r.channelName → FitsField 2 r.locationName →
      encodeReq c req s = rejectedWith 3 s)
    ∧ ∀ r, req.variant = .record (.commandResponse r) → req.frameType = 9 → req.times[0]? = some (some t) →
      FitsField 8 r.responderStation → FitsField 5 r.siteName → FitsField 3 r.channelName → FitsField 2 r.locationName →
      encodeReq c req s = rejectedWith 3 s

/-- `DECODEBUF` of a buffer that starts with a complete frame that fits and whose body decodes: the regions are held, the
registers are those of the frame, the checksum is compared; what follows the frame is ignored, the stream not touched. -/
def Obligations.DecodebufDeliversTheFrame : Prop :=
  ∀ (s : State) (r : Regions) (rest : Bytes) (ty : FrameType) (b : Body) (k : Nat),
    s.phase.waiting = false → CompleteFrame Config.cfg r → be32 r.hdr 0 = ty.code →
    bodyDec Config.cfg s.realign ty r.body = .ok b k →
    exec (.decodebuf (r.bytes ++ rest)) s = .next
      { withBodyAndTrailer r b k (withHeader r.hdr (cleared 0 0 0 (frameRead r s.fifo s))) with
        spos := s.spos, crcChecked := true
        crcOk := Config.cfg.crc64 (r.bytes.take (r.bytes.length - 8) ++ zeros 8)
          == BitVec.ofNat 64 (be64 r.tr2 (pad4 (be32 r.tr1 4))) }

/-- A buffer that `DECODEBUF` cannot split is rejected with the reason and place of the first check that fails, in the
order of R179; no frame is held after it. That the two lengths and the buffers then stay as they were is read from the
pseudocode (DEDUCED, log 23), and an `EPOS` beyond 32 bits is a free value (DESIGN CHOICE, log 8). -/
def Obligations.DecodebufSplitFailures : Prop :=
  (∀ (buf : Bytes) (s : State), s.phase.waiting = false → exec (.decodebuf buf) s = .next (decodeBuf Config.cfg buf s))
  ∧ ∀ (c : Cfg) (buf : Bytes) (s : State) (stop : BitVec 8 → Nat → State),
    (∀ sub p, stop sub p = { cleared 3 sub (eposOf c p) s with phase := .idle, rawValid := false }) →
    (buf.length < 36 → decodeBuf c buf s = stop 4 0)
    ∧ (36 ≤ buf.length →
      (be32 buf 4 ≤ 36 → decodeBuf c buf s = stop 2 4)
      ∧ (36 < be32 buf 4 →
        (c.bodyMax < be32 buf 4 - 36 → decodeBuf c buf s = stop 3 4)
        ∧ (be32 buf 4 - 36 ≤ c.bodyMax →
          (buf.length < be32 buf 4 + 8 → decodeBuf c buf s = stop 4 36)
          ∧ (be32 buf 4 + 8 ≤ buf.length →
            (c.authMax < pad4 (be32 buf (be32 buf 4 + 4)) → decodeBuf c buf s = stop 3 (be32 buf 4 + 4))
            ∧ (pad4 (be32 buf (be32 buf 4 + 4)) ≤ c.authMax →
              buf.length < be32 buf 4 + 16 + pad4 (be32 buf (be32 buf 4 + 4)) →
              decodeBuf c buf s = stop 10 (be32 buf 4 + 8))))))

/-- The round trip of a frame: what `ENCODE` offers, `DECODEBUF` decodes to the request's own fields, without warning or
degradation, and the checksum verifies. The series and the variant are the request's, the instants converted. -/
def Obligations.EncodeThenDecodebuf : Prop :=
  ∀ (req : EncReq) (s t u : State) (v : Variant) (body out rest : Bytes),
    s.phase.waiting = false → exec (.encode req) s = .next t → t.txValid = true →
    Memory.load t.txBuf 0 t.txLen = some out →
    resolveVariant Config.cfg req = .ok v → CanonicalVariant v → bodyEnc Config.cfg v = .ok body →
    body.length ≤ Config.cfg.bodyMax → pad4 req.authValue.length ≤ Config.cfg.authMax → u.phase.waiting = false →
    ∃ w, exec (.decodebuf (out ++ rest)) u = .next w
      ∧ w.hType.toNat = req.frameType ∧ w.hToff.toNat = 36 + body.length ∧ w.hCreator = req.frameCreator
      ∧ w.hDest = req.frameDestination ∧ w.hSeq.toNat = req.sequenceNumber ∧ w.hSeries.toNat = req.series
      ∧ w.v = v ∧ w.tKeyid.toNat = req.authKeyId ∧ w.tAuthsz.toNat = req.authValue.length
      ∧ w.tAuthval = req.authValue ++ zeros (padlen req.authValue.length)
      ∧ w.warn = 0 ∧ w.degraded = false ∧ w.decoded = true ∧ w.crcChecked = true ∧ w.crcOk = true ∧ w.cause = 0

/-- `RESET`, command code 15, in every phase: every element of `S` takes its reset value, no field register and no buffer
can be read, the stream is the fresh one, and a frame read can start again. -/
def Obligations.ResetRestoresTheResetState : Prop :=
  (∀ c : Command, c.code = 15 → decodeCommand c = .reset c.fresh)
  ∧ ∀ (s : State) (fresh : Bytes), ∃ t, exec (.reset fresh) s = .next t
    ∧ t.phase = .idle ∧ t.spos = 0 ∧ t.fstart = 0 ∧ t.desync = false
    ∧ t.rawValid = false ∧ t.hdrValid = false ∧ t.decoded = false
    ∧ t.crcChecked = false ∧ t.crcOk = false ∧ t.degraded = false ∧ t.skipList = []
    ∧ t.bodyLen = 0 ∧ t.tr2Len = 0 ∧ t.txLen = 0 ∧ t.txValid = false
    ∧ t.cfg = 0x00000001 ∧ t.cause = 0 ∧ t.subcause = 0 ∧ t.epos = 0 ∧ t.warn = 0
    ∧ (∀ x, readable t x = true ↔ x = .skipList) ∧ t.status = 0
    ∧ t.fifo = [] ∧ t.stream = fresh ∧ t.inputs = s.inputs ∧ t.result = s.result
    ∧ ∃ u, exec .rdframe t = .next u ∧ u.phase = .wHdr

/-! ## The streamer -/

/-- The wait step: without the awaited bytes and with both levels 0, nothing changes, however often it is taken. That a step
with no move pending is such a poll step is the model's choice (DESIGN CHOICE, log 4). -/
def Obligations.WaitStepChangesNothing : Prop :=
  ∀ (s : State) (n : Nat), s.phase.waiting = true → needLen s = some n → s.fifo.length < n →
    (∀ (c : Cfg) (short : Option Nat), pollStep c false false short s = .next s)
    ∧ (s.inputs = [] → ∀ k, Host.Core.run Sys2Proof.core k s = .next s)

/-- The levels are looked at only when the awaited region is not there. Cancelling before any byte of the frame is consumed
is clean; after the header it is fatal to the stream, and `EPOS` is the number of bytes of the frame consumed where 32
bits hold it (else free: DESIGN CHOICE, log 8). `halt` is the one reported when both levels are 1. -/
def Obligations.CancellationIsCleanOnlyAtTheStart : Prop :=
  ∀ (c : Cfg) (s : State) (short : Option Nat) (n : Nat) (halt intr : Bool), needLen s = some n →
    (n ≤ s.fifo.length → pollStep c halt intr short s = pollStep c false false short s)
    ∧ (s.fifo.length < n → (halt || intr) = true →
      (s.phase = .wHdr → pollStep c halt intr short s = .next
        { s with cause := 1, subcause := if halt then 1 else 2, epos := 0, phase := .idle, rawValid := false })
      ∧ ((s.phase = .wBody ∨ s.phase = .wTr1 ∨ s.phase = .wTr2) →
        pollStep c halt intr short s = .next (fatalEnd 2 (if halt then 1 else 2) (eposOf c (s.spos - s.fstart).toNat) s)
        ∧ ((s.spos - s.fstart).toNat < 2 ^ 32 → (eposOf c (s.spos - s.fstart).toNat).toNat = (s.spos - s.fstart).toNat)))

/-- A short read in any waiting phase consumes what came and is fatal, even when nothing came. -/
def Obligations.ShortReadIsFatal : Prop :=
  ∀ (c : Cfg) (s : State) (n k : Nat) (halt intr : Bool), s.phase.waiting = true → needLen s = some n →
    n ≤ s.fifo.length → k < n →
    pollStep c halt intr (some k) s = .next
      (fatalEnd 2 3 (eposOf c (s.spos + BitVec.ofNat 64 k - s.fstart).toNat)
        { s with spos := s.spos + BitVec.ofNat 64 k, fifo := s.fifo.drop k })

/-- The header region: with 36 bytes there, a trailer offset up to 36 is fatal, a body beyond `BODY_MAX` is fatal, any
other offset moves on to the body; `SPOS` advances by 36 in each case. -/
def Obligations.HeaderRegionSizesTheBody : Prop :=
  ∀ (c : Cfg) (s u : State) (halt intr : Bool), s.phase = .wHdr → 36 ≤ s.fifo.length →
    u = { s with spos := s.spos + 36, fifo := s.fifo.drop 36, hdrBuf := Memory.ofBytes (s.fifo.take 36) } →
    (be32 s.fifo 4 ≤ 36 → pollStep c halt intr none s = .next (fatalEnd 3 2 4 u))
    ∧ (36 < be32 s.fifo 4 → c.bodyMax < be32 s.fifo 4 - 36 → pollStep c halt intr none s = .next (fatalEnd 3 3 4 u))
    ∧ (36 < be32 s.fifo 4 → be32 s.fifo 4 - 36 ≤ c.bodyMax →
        pollStep c halt intr none s = .next { u with phase := .wBody } ∧ needLen { u with phase := .wBody } = some (be32 s.fifo 4 - 36))

/-- The later regions: the body is stored whole, trailer segment 1 sizes segment 2 or is fatal beyond `AUTH_MAX`, segment
2 completes the frame. `h` is the stored header; an `EPOS` beyond 32 bits is a free value (DESIGN CHOICE, log 8). -/
def Obligations.LaterRegionsCompleteTheFrame : Prop :=
  ∀ (c : Cfg) (s : State) (h : Bytes) (n : Nat) (halt intr : Bool), Memory.load s.hdrBuf 0 36 = some h →
    n ≤ s.fifo.length →
    (s.phase = .wBody → n = be32 h 4 - 36 → 0 < n → pollStep c halt intr none s = .next
      { s with
        spos := s.spos + BitVec.ofNat 64 n, fifo := s.fifo.drop n, bodyBuf := Memory.ofBytes (s.fifo.take n)
        bodyLen := n, phase := .wTr1 })
    ∧ (s.phase = .wTr1 → n = 8 →
      (pad4 (be32 s.fifo 4) ≤ c.authMax → pollStep c halt intr none s = .next
        { s with
          spos := s.spos + 8, fifo := s.fifo.drop 8, tr1Buf := Memory.ofBytes (s.fifo.take 8), phase := .wTr2 })
      ∧ (c.authMax < pad4 (be32 s.fifo 4) → pollStep c halt intr none s = .next
        (fatalEnd 3 3 (eposOf c (be32 h 4 + 4))
          { s with spos := s.spos + 8, fifo := s.fifo.drop 8, tr1Buf := Memory.ofBytes (s.fifo.take 8) })))
    ∧ (∀ t1, s.phase = .wTr2 → Memory.load s.tr1Buf 0 8 = some t1 → n = pad4 (be32 t1 4) + 8 →
      pollStep c halt intr none s = .next
      { s with
        spos := s.spos + BitVec.ofNat 64 n, fifo := s.fifo.drop n, tr2Buf := Memory.ofBytes (s.fifo.take n)
        tr2Len := n, rawValid := true, phase := .done })

/-- A frame whose bytes have all arrived is read in four poll steps, whatever the cancellation levels: the regions are the
bytes the transport delivered, `SPOS` moves by the frame's length, what follows stays in the transport. -/
def Obligations.WholeFrameStreamsInFourPolls : Prop :=
  ∀ (s : State) (r : Regions) (rest : Bytes) (more : List Input) (h0 h1 h2 h3 i0 i1 i2 i3 : Bool),
    CompleteFrame Config.cfg r → s.phase = .wHdr → s.fifo = r.bytes ++ rest →
    s.inputs = .poll h0 i0 none :: .poll h1 i1 none :: .poll h2 i2 none :: .poll h3 i3 none :: more →
    Host.Core.run Sys2Proof.core 4 s = .next { frameRead r rest s with inputs := more }

/-- The receive path: from any state that can start a frame read, `RDFRAME`, four poll steps, `DECODE` and `VERIFY` deliver
the frame that stands at the front of the transport, checked, with `SPOS` at the next frame (that `DECODE` runs the frame
as an instruction: DEDUCED, log 5). -/
def Obligations.ReceivePathDeliversTheFrame : Prop :=
  ∀ (s : State) (r : Regions) (rest : Bytes) (more : List Input) (t : FrameType) (f : Frame) (b : Body) (k : Nat)
    (h0 h1 h2 h3 i0 i1 i2 i3 : Bool),
    s.phase.waiting = false → s.desync = false → CompleteFrame Config.cfg r → decodeRegions r = .ok (t.instr f) →
    bodyDec Config.cfg s.realign t f.body = .ok b k → s.fifo = r.bytes ++ rest →
    s.inputs = .command (Command.plain 1) :: .poll h0 i0 none :: .poll h1 i1 none :: .poll h2 i2 none :: .poll h3 i3 none
      :: .command (Command.plain 2) :: .command (Command.plain 3) :: more →
    Host.Core.run Sys2Proof.core 7 s = .next
      { delivered t f b k (frameRead r rest s) with
        fstart := s.spos, inputs := more, crcChecked := true
        crcOk := Config.cfg.crc64 (r.bytes.take (r.bytes.length - 8) ++ zeros 8) == f.checksum }

/-! ## Invariants of every step -/

/-- Every step keeps the invariant of the machine, from every state that meets it. -/
def Obligations.StepKeepsTheInvariant : Prop :=
  ∀ s t : State, Inv Config.cfg s → Sys2Proof.Machine.step s = .next t → Inv Config.cfg t

/-- The state after reset meets the invariant. -/
def Obligations.ResetMeetsTheInvariant : Prop := Inv Config.cfg State.reset

/-- From a state that meets the invariant no step is refused, and the only fault is a host read of a register whose valid
bit is 0. -/
def Obligations.OnlyInvalidReadsFault : Prop :=
  ∀ s : State, Inv Config.cfg s → (∃ t, Sys2Proof.Machine.step s = .next t)
    ∨ ∃ x rest, s.inputs = .readResult x :: rest ∧ readable s x = false ∧ Sys2Proof.Machine.step s = .fault (.invalidRead x)

/-- A desynchronised instance stays so until `RESET`, and reads no frame meanwhile. -/
def Obligations.DesyncIsSticky : Prop :=
  ∀ s t : State, s.desync = true → s.phase.waiting = false → Sys2Proof.Machine.step s = .next t →
    NextIsCommand [15] s ∨ (t.desync = true ∧ t.phase.waiting = false ∧ t.spos = s.spos)

/-- The program counter moves only by the bytes a poll step consumes off the front of the transport, or back to 0 by
`RESET`; no byte is skipped or repeated. -/
def Obligations.SposCountsConsumedBytes : Prop :=
  ∀ s t : State, Sys2Proof.Machine.step s = .next t →
    (∃ d, s.fifo = d ++ t.fifo ∧ t.stream = s.stream ∧ t.spos = s.spos + BitVec.ofNat 64 d.length
      ∧ (d ≠ [] → s.phase.waiting = true ∧ (s.inputs = [] ∨ ∃ halt intr short rest, s.inputs = .poll halt intr short :: rest)))
    ∨ (∃ n rest, s.inputs = .arrive n :: rest ∧ t.spos = s.spos ∧ t.fifo ++ t.stream = s.fifo ++ s.stream
      ∧ s.fifo.length ≤ t.fifo.length)
    ∨ (NextIsCommand [15] s ∧ t.spos = 0 ∧ t.fifo = [])

/-- `CFG` changes only by an accepted host write, which stores bit 0 alone, or to its reset value. -/
def Obligations.CfgIsWrittenOnlyByTheHost : Prop :=
  ∀ s t : State, Sys2Proof.Machine.step s = .next t →
    t.cfg = s.cfg
    ∨ (∃ v rest, s.inputs = .csrWrite 0 v :: rest ∧ s.phase.waiting = false ∧ t.cfg = v &&& 1)
    ∨ (NextIsCommand [15] s ∧ t.cfg = 1)

/-- A held frame stays as it is, byte for byte, until `RDFRAME`, `DECODEBUF` or `RESET`; the output until `ENCODE` or
`RESET`. -/
def Obligations.HeldFrameAndOutputAreStable : Prop :=
  ∀ s t : State, Sys2Proof.Machine.step s = .next t →
    (s.phase.waiting = false → ¬ NextIsCommand [1, 5, 15] s → SameRegions s t ∧ t.rawValid = s.rawValid)
    ∧ (¬ NextIsCommand [4, 15] s → SameOutput s t)

/-! ## Registers, error entry, derived fields, the step -/

/-- What the host reads and writes by register number: a read changes nothing else, the numbers above 11 read 0, only
`CFG` bit 0 is writable and only in `IDLE` and `DONE`. A length that does not fit 32 bits reads as a free value (DESIGN
CHOICE, log 9). -/
def Obligations.RegisterNumbers : Prop :=
  (∀ (s : State) (n : Nat) (rest : List Input), s.inputs = .csrRead n :: rest →
    Sys2Proof.Machine.step s = .next { s with inputs := rest, result := .word (s.csr Config.cfg n) }
    ∧ s.csr Config.cfg 0 = s.cfg ∧ s.csr Config.cfg 1 = s.status
    ∧ (s.csr Config.cfg 2).toNat = s.cause.toNat ∧ (s.csr Config.cfg 3).toNat = s.subcause.toNat
    ∧ s.csr Config.cfg 4 = s.epos ∧ s.csr Config.cfg 5 = s.cond ∧ s.csr Config.cfg 6 = s.warn
    ∧ s.spos.toNat = (s.csr Config.cfg 8).toNat * 2 ^ 32 + (s.csr Config.cfg 7).toNat
    ∧ (s.bodyLen < 2 ^ 32 → (s.csr Config.cfg 9).toNat = s.bodyLen)
    ∧ (s.tr2Len < 2 ^ 32 → (s.csr Config.cfg 10).toNat = s.tr2Len)
    ∧ (s.txLen < 2 ^ 32 → (s.csr Config.cfg 11).toNat = s.txLen)
    ∧ (11 < n → s.csr Config.cfg n = 0))
  ∧ ∀ (s : State) (n : Nat) (v : BitVec 32) (rest : List Input), s.inputs = .csrWrite n v :: rest →
    (n = 0 → s.phase.waiting = false →
      Sys2Proof.Machine.step s = .next { s with inputs := rest, cfg := if v.getLsbD 0 then 1 else 0 })
    ∧ ((n ≠ 0 ∨ s.phase.waiting = true) → Sys2Proof.Machine.step s = .next { s with inputs := rest })

/-- Every bit of `STATUS` and of `COND`, the reserved ones included. -/
def Obligations.StatusAndCondBits : Prop :=
  ∀ s : State,
    (∀ i, s.status.getLsbD i =
      (if i = 0 then s.phase.waiting else if i = 1 then s.rawValid else if i = 2 then s.hdrValid
       else if i = 3 then s.decoded else if i = 4 then s.crcChecked else if i = 5 then s.crcChecked && s.crcOk
       else if i = 6 then s.degraded else if i = 7 then s.desync else if i = 8 then decide (s.cause ≠ 0)
       else if i = 9 then s.txValid else false))
    ∧ ∀ i, s.cond.getLsbD i =
      (if i = 4 then s.crcChecked && !s.crcOk else if i = 5 then s.degraded else false)

/-- A host read of a register whose valid bit is 0 faults (R44). `CRC_OK` has no name at the result port: the host sees it
in `STATUS`, where it reads as 0 while `CRC_CHECKED` is 0 (R29, R31; DESIGN CHOICE, log 22). -/
def Obligations.InvalidRegistersFault : Prop :=
  ∀ (s : State) (x : ResultReg) (rest : List Input), s.inputs = .readResult x :: rest →
    (s.hdrValid = false → x ∈ [.hType, .hToff, .hCreator, .hDest, .hSeq, .hSeries] →
      Sys2Proof.Machine.step s = .fault (.invalidRead x))
    ∧ (s.decoded = false → x ∈ [.tKeyid, .tAuthsz, .tAuthval, .tCksum, .variant] →
      Sys2Proof.Machine.step s = .fault (.invalidRead x))
    ∧ (s.rawValid = false → s.phase.waiting = false → x ∈ [.hdrBuf, .bodyBuf, .tr1Buf, .tr2Buf] →
      Sys2Proof.Machine.step s = .fault (.invalidRead x))
    ∧ (s.rawValid = false → s.phase = .wHdr → x ∈ [.hdrBuf, .bodyBuf, .tr1Buf, .tr2Buf] →
      Sys2Proof.Machine.step s = .fault (.invalidRead x))
    ∧ (s.rawValid = false → s.phase = .wBody → x ∈ [.bodyBuf, .tr1Buf, .tr2Buf] →
      Sys2Proof.Machine.step s = .fault (.invalidRead x))
    ∧ (s.rawValid = false → s.phase = .wTr1 → x ∈ [.tr1Buf, .tr2Buf] → Sys2Proof.Machine.step s = .fault (.invalidRead x))
    ∧ (s.rawValid = false → s.phase = .wTr2 → x = .tr2Buf → Sys2Proof.Machine.step s = .fault (.invalidRead x))
    ∧ (s.txValid = false → x = .txBuf → Sys2Proof.Machine.step s = .fault (.invalidRead x))
    ∧ (s.crcChecked = false → s.status.getLsbD 5 = false)

/-- A host read of a valid register delivers its value and changes nothing else: every name of the result port, the buffers
byte for byte, a region also during the frame read that has consumed it. A derived field at a place where `V` holds no
subframe delivers no value (DESIGN CHOICE, log 31). -/
def Obligations.ValidRegistersAreDelivered : Prop :=
  ∀ (s : State) (rest : List Input) (x : ResultReg), s.inputs = .readResult x :: rest →
    (s.hdrValid = true →
      (x = .hType → Delivers s rest (.word s.hType)) ∧ (x = .hToff → Delivers s rest (.word s.hToff))
      ∧ (x = .hCreator → Delivers s rest (.bytes s.hCreator)) ∧ (x = .hDest → Delivers s rest (.bytes s.hDest))
      ∧ (x = .hSeq → Delivers s rest (.long s.hSeq)) ∧ (x = .hSeries → Delivers s rest (.word s.hSeries)))
    ∧ (s.decoded = true →
      (x = .tKeyid → Delivers s rest (.word s.tKeyid)) ∧ (x = .tAuthsz → Delivers s rest (.word s.tAuthsz))
      ∧ (x = .tAuthval → Delivers s rest (.bytes s.tAuthval)) ∧ (x = .tCksum → Delivers s rest (.long s.tCksum))
      ∧ (x = .variant → Delivers s rest (.variant s.v))
      ∧ ∀ i,
        (∀ d f, s.v = .data d → d.subframes[i]? = some f →
          (x = .sampleRateHz i → Delivers s rest (.rational (sampleRateHz f)))
          ∧ (x = .endTime i → Delivers s rest (.rational (endTime Config.cfg f))))
        ∧ ((∀ d, s.v = .data d → d.subframes[i]? = none) → (x = .sampleRateHz i ∨ x = .endTime i) →
          Delivers s rest (.rational none)))
    ∧ (∀ b, x = .hdrBuf → Memory.load s.hdrBuf 0 36 = some b →
      (s.rawValid = true ∨ s.phase = .wBody ∨ s.phase = .wTr1 ∨ s.phase = .wTr2) → Delivers s rest (.bytes b))
    ∧ (∀ b, x = .bodyBuf → Memory.load s.bodyBuf 0 s.bodyLen = some b →
      (s.rawValid = true ∨ s.phase = .wTr1 ∨ s.phase = .wTr2) → Delivers s rest (.bytes b))
    ∧ (∀ b, x = .tr1Buf → Memory.load s.tr1Buf 0 8 = some b → (s.rawValid = true ∨ s.phase = .wTr2) → Delivers s rest (.bytes b))
    ∧ (∀ b, x = .tr2Buf → Memory.load s.tr2Buf 0 s.tr2Len = some b → s.rawValid = true → Delivers s rest (.bytes b))
    ∧ (∀ b, x = .txBuf → Memory.load s.txBuf 0 s.txLen = some b → s.txValid = true → Delivers s rest (.bytes b))
    ∧ (x = .skipList → Delivers s rest (.skips s.skipList))

/-- Error entry: a command's error writes the three registers alone; the streamer's also ends the read, and desynchronises
the stream unless it is `Cancelled`. No aborting error has cause or sub-cause 0. -/
def Obligations.ErrorEntry : Prop :=
  ∀ (c : Cfg) (e : Err) (pos : Nat) (s : State),
    raise c .command e pos s = { s with cause := e.cause, subcause := e.subcause, epos := eposOf c pos }
    ∧ raise c .streamer e pos s =
      { s with
        cause := e.cause, subcause := e.subcause, epos := eposOf c pos, phase := .idle, rawValid := false
        desync := s.desync || decide (e.cause ≠ 1) }
    ∧ e.cause ∈ [1, 2, 3, 6, 7] ∧ e.subcause ≠ 0
    ∧ (pos < 2 ^ 32 → (eposOf c pos).toNat = pos)

/-- The derived fields of a subframe: the exact rate, and the time of the last sample. The rate does not depend on the
timestamp; a timestamp that does not convert leaves the end time without a value. -/
def Obligations.RateAndEndTime : Prop :=
  ∀ (c : Cfg) (f : ChannelSubframe),
    (f.subframeTimeLengthMs = 0 → sampleRateHz f = none ∧ endTime c f = none)
    ∧ (f.sampleCount = 0 → endTime c f = none)
    ∧ (f.subframeTimeLengthMs ≠ 0 → ∃ q, sampleRateHz f = some q ∧ q * f.subframeTimeLengthMs = 1000 * f.sampleCount)
    ∧ ∀ ts : Vector Byte 20, f.timeStamp = ts.toList →
      (c.tsDecode ts = none → endTime c f = none)
      ∧ ∀ t, c.tsDecode ts = some t → f.subframeTimeLengthMs ≠ 0 → f.sampleCount ≠ 0 →
        ∃ e, endTime c f = some e ∧ (e - t) * f.sampleCount = f.subframeTimeLengthMs * (f.sampleCount - 1)

/-- A step runs the instruction that the pending command names: the decoded held frame for `DECODE`, the command itself
otherwise, with the command taken off the port. -/
def Obligations.StepRunsTheDecodedInstruction : Prop :=
  ∀ (s : State) (c : Command) (rest : List Input), s.inputs = .command c :: rest →
    (decodeCommand c ≠ .decode → Sys2Proof.Machine.step s = exec (decodeCommand c) { s with inputs := rest })
    ∧ (∀ r i, decodeCommand c = .decode → s.rawValid = true → heldRegions s = some r → decodeRegions r = .ok i →
        Sys2Proof.Machine.step s = exec i { s with inputs := rest })
    ∧ (decodeCommand c = .decode → (s.rawValid = false ∨ ∃ r, heldRegions s = some r ∧ ∀ i, decodeRegions r ≠ .ok i) →
        Sys2Proof.Machine.step s = exec .decode { s with inputs := rest })

/-- The other moves: a poll input is a poll step with its levels, no input is a poll step with both levels 0, an arrival
moves bytes of the stream to the transport's buffer up to its depth. -/
def Obligations.StepMakesTheOtherMoves : Prop :=
  ∀ s : State,
    (s.inputs = [] → Sys2Proof.Machine.step s = pollStep Config.cfg false false none s)
    ∧ (∀ halt intr short rest, s.inputs = .poll halt intr short :: rest →
        Sys2Proof.Machine.step s = pollStep Config.cfg halt intr short { s with inputs := rest })
    ∧ (∀ n rest, s.inputs = .arrive n :: rest → s.fifo.length + n ≤ Config.cfg.fifoDepth →
        Sys2Proof.Machine.step s
          = .next { s with inputs := rest, fifo := s.fifo ++ s.stream.take n, stream := s.stream.drop n })
    ∧ (s.phase.waiting = false → ∀ halt intr short, pollStep Config.cfg halt intr short s = .next s)
end

