-- ==== Sys2Proof/Laws/State.lean ====
section
/-! SUPPORT. One lemma per field per update: what each shared operation leaves in each field of `State`. -/

namespace Sys2Proof.Machine

/-! ## `raise` -/

@[simp] theorem raise_phase (c : Cfg) (og : Origin) (e : Err) (p : Nat) (s : State) : (raise c og e p s).phase = (if og = .streamer then Phase.idle else s.phase) := rfl
@[simp] theorem raise_spos (c : Cfg) (og : Origin) (e : Err) (p : Nat) (s : State) : (raise c og e p s).spos = s.spos := rfl
@[simp] theorem raise_fstart (c : Cfg) (og : Origin) (e : Err) (p : Nat) (s : State) : (raise c og e p s).fstart = s.fstart := rfl
@[simp] theorem raise_desync (c : Cfg) (og : Origin) (e : Err) (p : Nat) (s : State) : (raise c og e p s).desync = (if og = .streamer then s.desync || e.desynchronizes else s.desync) := rfl
@[simp] theorem raise_hdrBuf (c : Cfg) (og : Origin) (e : Err) (p : Nat) (s : State) : (raise c og e p s).hdrBuf = s.hdrBuf := rfl
@[simp] theorem raise_bodyBuf (c : Cfg) (og : Origin) (e : Err) (p : Nat) (s : State) : (raise c og e p s).bodyBuf = s.bodyBuf := rfl
@[simp] theorem raise_tr1Buf (c : Cfg) (og : Origin) (e : Err) (p : Nat) (s : State) : (raise c og e p s).tr1Buf = s.tr1Buf := rfl
@[simp] theorem raise_tr2Buf (c : Cfg) (og : Origin) (e : Err) (p : Nat) (s : State) : (raise c og e p s).tr2Buf = s.tr2Buf := rfl
@[simp] theorem raise_bodyLen (c : Cfg) (og : Origin) (e : Err) (p : Nat) (s : State) : (raise c og e p s).bodyLen = s.bodyLen := rfl
@[simp] theorem raise_tr2Len (c : Cfg) (og : Origin) (e : Err) (p : Nat) (s : State) : (raise c og e p s).tr2Len = s.tr2Len := rfl
@[simp] theorem raise_rawValid (c : Cfg) (og : Origin) (e : Err) (p : Nat) (s : State) : (raise c og e p s).rawValid = (if og = .streamer then false else s.rawValid) := rfl
@[simp] theorem raise_hType (c : Cfg) (og : Origin) (e : Err) (p : Nat) (s : State) : (raise c og e p s).hType = s.hType := rfl
@[simp] theorem raise_hToff (c : Cfg) (og : Origin) (e : Err) (p : Nat) (s : State) : (raise c og e p s).hToff = s.hToff := rfl
@[simp] theorem raise_hCreator (c : Cfg) (og : Origin) (e : Err) (p : Nat) (s : State) : (raise c og e p s).hCreator = s.hCreator := rfl
@[simp] theorem raise_hDest (c : Cfg) (og : Origin) (e : Err) (p : Nat) (s : State) : (raise c og e p s).hDest = s.hDest := rfl
@[simp] theorem raise_hSeq (c : Cfg) (og : Origin) (e : Err) (p : Nat) (s : State) : (raise c og e p s).hSeq = s.hSeq := rfl
@[simp] theorem raise_hSeries (c : Cfg) (og : Origin) (e : Err) (p : Nat) (s : State) : (raise c og e p s).hSeries = s.hSeries := rfl
@[simp] theorem raise_hdrValid (c : Cfg) (og : Origin) (e : Err) (p : Nat) (s : State) : (raise c og e p s).hdrValid = s.hdrValid := rfl
@[simp] theorem raise_tKeyid (c : Cfg) (og : Origin) (e : Err) (p : Nat) (s : State) : (raise c og e p s).tKeyid = s.tKeyid := rfl
@[simp] theorem raise_tAuthsz (c : Cfg) (og : Origin) (e : Err) (p : Nat) (s : State) : (raise c og e p s).tAuthsz = s.tAuthsz := rfl
@[simp] theorem raise_tAuthval (c : Cfg) (og : Origin) (e : Err) (p : Nat) (s : State) : (raise c og e p s).tAuthval = s.tAuthval := rfl
@[simp] theorem raise_tCksum (c : Cfg) (og : Origin) (e : Err) (p : Nat) (s : State) : (raise c og e p s).tCksum = s.tCksum := rfl
@[simp] theorem raise_v (c : Cfg) (og : Origin) (e : Err) (p : Nat) (s : State) : (raise c og e p s).v = s.v := rfl
@[simp] theorem raise_decoded (c : Cfg) (og : Origin) (e : Err) (p : Nat) (s : State) : (raise c og e p s).decoded = s.decoded := rfl
@[simp] theorem raise_crcChecked (c : Cfg) (og : Origin) (e : Err) (p : Nat) (s : State) : (raise c og e p s).crcChecked = s.crcChecked := rfl
@[simp] theorem raise_crcOk (c : Cfg) (og : Origin) (e : Err) (p : Nat) (s : State) : (raise c og e p s).crcOk = s.crcOk := rfl
@[simp] theorem raise_degraded (c : Cfg) (og : Origin) (e : Err) (p : Nat) (s : State) : (raise c og e p s).degraded = s.degraded := rfl
@[simp] theorem raise_skipList (c : Cfg) (og : Origin) (e : Err) (p : Nat) (s : State) : (raise c og e p s).skipList = s.skipList := rfl
@[simp] theorem raise_cfg (c : Cfg) (og : Origin) (e : Err) (p : Nat) (s : State) : (raise c og e p s).cfg = s.cfg := rfl
@[simp] theorem raise_cause (c : Cfg) (og : Origin) (e : Err) (p : Nat) (s : State) : (raise c og e p s).cause = e.cause := rfl
@[simp] theorem raise_subcause (c : Cfg) (og : Origin) (e : Err) (p : Nat) (s : State) : (raise c og e p s).subcause = e.subcause := rfl
@[simp] theorem raise_epos (c : Cfg) (og : Origin) (e : Err) (p : Nat) (s : State) : (raise c og e p s).epos = eposOf c p := rfl
@[simp] theorem raise_warn (c : Cfg) (og : Origin) (e : Err) (p : Nat) (s : State) : (raise c og e p s).warn = s.warn := rfl
@[simp] theorem raise_txBuf (c : Cfg) (og : Origin) (e : Err) (p : Nat) (s : State) : (raise c og e p s).txBuf = s.txBuf := rfl
@[simp] theorem raise_txLen (c : Cfg) (og : Origin) (e : Err) (p : Nat) (s : State) : (raise c og e p s).txLen = s.txLen := rfl
@[simp] theorem raise_txValid (c : Cfg) (og : Origin) (e : Err) (p : Nat) (s : State) : (raise c og e p s).txValid = s.txValid := rfl
@[simp] theorem raise_fifo (c : Cfg) (og : Origin) (e : Err) (p : Nat) (s : State) : (raise c og e p s).fifo = s.fifo := rfl
@[simp] theorem raise_stream (c : Cfg) (og : Origin) (e : Err) (p : Nat) (s : State) : (raise c og e p s).stream = s.stream := rfl
@[simp] theorem raise_inputs (c : Cfg) (og : Origin) (e : Err) (p : Nat) (s : State) : (raise c og e p s).inputs = s.inputs := rfl
@[simp] theorem raise_result (c : Cfg) (og : Origin) (e : Err) (p : Nat) (s : State) : (raise c og e p s).result = s.result := rfl

/-! ## `clearError` -/

@[simp] theorem clearError_phase (s : State) : (clearError s).phase = s.phase := rfl
@[simp] theorem clearError_spos (s : State) : (clearError s).spos = s.spos := rfl
@[simp] theorem clearError_fstart (s : State) : (clearError s).fstart = s.fstart := rfl
@[simp] theorem clearError_desync (s : State) : (clearError s).desync = s.desync := rfl
@[simp] theorem clearError_hdrBuf (s : State) : (clearError s).hdrBuf = s.hdrBuf := rfl
@[simp] theorem clearError_bodyBuf (s : State) : (clearError s).bodyBuf = s.bodyBuf := rfl
@[simp] theorem clearError_tr1Buf (s : State) : (clearError s).tr1Buf = s.tr1Buf := rfl
@[simp] theorem clearError_tr2Buf (s : State) : (clearError s).tr2Buf = s.tr2Buf := rfl
@[simp] theorem clearError_bodyLen (s : State) : (clearError s).bodyLen = s.bodyLen := rfl
@[simp] theorem clearError_tr2Len (s : State) : (clearError s).tr2Len = s.tr2Len := rfl
@[simp] theorem clearError_rawValid (s : State) : (clearError s).rawValid = s.rawValid := rfl
@[simp] theorem clearError_hType (s : State) : (clearError s).hType = s.hType := rfl
@[simp] theorem clearError_hToff (s : State) : (clearError s).hToff = s.hToff := rfl
@[simp] theorem clearError_hCreator (s : State) : (clearError s).hCreator = s.hCreator := rfl
@[simp] theorem clearError_hDest (s : State) : (clearError s).hDest = s.hDest := rfl
@[simp] theorem clearError_hSeq (s : State) : (clearError s).hSeq = s.hSeq := rfl
@[simp] theorem clearError_hSeries (s : State) : (clearError s).hSeries = s.hSeries := rfl
@[simp] theorem clearError_hdrValid (s : State) : (clearError s).hdrValid = s.hdrValid := rfl
@[simp] theorem clearError_tKeyid (s : State) : (clearError s).tKeyid = s.tKeyid := rfl
@[simp] theorem clearError_tAuthsz (s : State) : (clearError s).tAuthsz = s.tAuthsz := rfl
@[simp] theorem clearError_tAuthval (s : State) : (clearError s).tAuthval = s.tAuthval := rfl
@[simp] theorem clearError_tCksum (s : State) : (clearError s).tCksum = s.tCksum := rfl
@[simp] theorem clearError_v (s : State) : (clearError s).v = s.v := rfl
@[simp] theorem clearError_decoded (s : State) : (clearError s).decoded = s.decoded := rfl
@[simp] theorem clearError_crcChecked (s : State) : (clearError s).crcChecked = s.crcChecked := rfl
@[simp] theorem clearError_crcOk (s : State) : (clearError s).crcOk = s.crcOk := rfl
@[simp] theorem clearError_degraded (s : State) : (clearError s).degraded = s.degraded := rfl
@[simp] theorem clearError_skipList (s : State) : (clearError s).skipList = s.skipList := rfl
@[simp] theorem clearError_cfg (s : State) : (clearError s).cfg = s.cfg := rfl
@[simp] theorem clearError_cause (s : State) : (clearError s).cause = 0 := rfl
@[simp] theorem clearError_subcause (s : State) : (clearError s).subcause = 0 := rfl
@[simp] theorem clearError_epos (s : State) : (clearError s).epos = 0 := rfl
@[simp] theorem clearError_warn (s : State) : (clearError s).warn = s.warn := rfl
@[simp] theorem clearError_txBuf (s : State) : (clearError s).txBuf = s.txBuf := rfl
@[simp] theorem clearError_txLen (s : State) : (clearError s).txLen = s.txLen := rfl
@[simp] theorem clearError_txValid (s : State) : (clearError s).txValid = s.txValid := rfl
@[simp] theorem clearError_fifo (s : State) : (clearError s).fifo = s.fifo := rfl
@[simp] theorem clearError_stream (s : State) : (clearError s).stream = s.stream := rfl
@[simp] theorem clearError_inputs (s : State) : (clearError s).inputs = s.inputs := rfl
@[simp] theorem clearError_result (s : State) : (clearError s).result = s.result := rfl

/-! ## `beginDecode` -/

@[simp] theorem beginDecode_phase (s : State) : (beginDecode s).phase = s.phase := rfl
@[simp] theorem beginDecode_spos (s : State) : (beginDecode s).spos = s.spos := rfl
@[simp] theorem beginDecode_fstart (s : State) : (beginDecode s).fstart = s.fstart := rfl
@[simp] theorem beginDecode_desync (s : State) : (beginDecode s).desync = s.desync := rfl
@[simp] theorem beginDecode_hdrBuf (s : State) : (beginDecode s).hdrBuf = s.hdrBuf := rfl
@[simp] theorem beginDecode_bodyBuf (s : State) : (beginDecode s).bodyBuf = s.bodyBuf := rfl
@[simp] theorem beginDecode_tr1Buf (s : State) : (beginDecode s).tr1Buf = s.tr1Buf := rfl
@[simp] theorem beginDecode_tr2Buf (s : State) : (beginDecode s).tr2Buf = s.tr2Buf := rfl
@[simp] theorem beginDecode_bodyLen (s : State) : (beginDecode s).bodyLen = s.bodyLen := rfl
@[simp] theorem beginDecode_tr2Len (s : State) : (beginDecode s).tr2Len = s.tr2Len := rfl
@[simp] theorem beginDecode_rawValid (s : State) : (beginDecode s).rawValid = s.rawValid := rfl
@[simp] theorem beginDecode_hType (s : State) : (beginDecode s).hType = s.hType := rfl
@[simp] theorem beginDecode_hToff (s : State) : (beginDecode s).hToff = s.hToff := rfl
@[simp] theorem beginDecode_hCreator (s : State) : (beginDecode s).hCreator = s.hCreator := rfl
@[simp] theorem beginDecode_hDest (s : State) : (beginDecode s).hDest = s.hDest := rfl
@[simp] theorem beginDecode_hSeq (s : State) : (beginDecode s).hSeq = s.hSeq := rfl
@[simp] theorem beginDecode_hSeries (s : State) : (beginDecode s).hSeries = s.hSeries := rfl
@[simp] theorem beginDecode_hdrValid (s : State) : (beginDecode s).hdrValid = false := rfl
@[simp] theorem beginDecode_tKeyid (s : State) : (beginDecode s).tKeyid = s.tKeyid := rfl
@[simp] theorem beginDecode_tAuthsz (s : State) : (beginDecode s).tAuthsz = s.tAuthsz := rfl
@[simp] theorem beginDecode_tAuthval (s : State) : (beginDecode s).tAuthval = s.tAuthval := rfl
@[simp] theorem beginDecode_tCksum (s : State) : (beginDecode s).tCksum = s.tCksum := rfl
@[simp] theorem beginDecode_v (s : State) : (beginDecode s).v = s.v := rfl
@[simp] theorem beginDecode_decoded (s : State) : (beginDecode s).decoded = false := rfl
@[simp] theorem beginDecode_crcChecked (s : State) : (beginDecode s).crcChecked = false := rfl
@[simp] theorem beginDecode_crcOk (s : State) : (beginDecode s).crcOk = false := rfl
@[simp] theorem beginDecode_degraded (s : State) : (beginDecode s).degraded = false := rfl
@[simp] theorem beginDecode_skipList (s : State) : (beginDecode s).skipList = [] := rfl
@[simp] theorem beginDecode_cfg (s : State) : (beginDecode s).cfg = s.cfg := rfl
@[simp] theorem beginDecode_cause (s : State) : (beginDecode s).cause = 0 := rfl
@[simp] theorem beginDecode_subcause (s : State) : (beginDecode s).subcause = 0 := rfl
@[simp] theorem beginDecode_epos (s : State) : (beginDecode s).epos = 0 := rfl
@[simp] theorem beginDecode_warn (s : State) : (beginDecode s).warn = 0 := rfl
@[simp] theorem beginDecode_txBuf (s : State) : (beginDecode s).txBuf = s.txBuf := rfl
@[simp] theorem beginDecode_txLen (s : State) : (beginDecode s).txLen = s.txLen := rfl
@[simp] theorem beginDecode_txValid (s : State) : (beginDecode s).txValid = s.txValid := rfl
@[simp] theorem beginDecode_fifo (s : State) : (beginDecode s).fifo = s.fifo := rfl
@[simp] theorem beginDecode_stream (s : State) : (beginDecode s).stream = s.stream := rfl
@[simp] theorem beginDecode_inputs (s : State) : (beginDecode s).inputs = s.inputs := rfl
@[simp] theorem beginDecode_result (s : State) : (beginDecode s).result = s.result := rfl

/-! ## `beginDecodebuf` -/

@[simp] theorem beginDecodebuf_phase (s : State) : (beginDecodebuf s).phase = s.phase := rfl
@[simp] theorem beginDecodebuf_spos (s : State) : (beginDecodebuf s).spos = s.spos := rfl
@[simp] theorem beginDecodebuf_fstart (s : State) : (beginDecodebuf s).fstart = s.fstart := rfl
@[simp] theorem beginDecodebuf_desync (s : State) : (beginDecodebuf s).desync = s.desync := rfl
@[simp] theorem beginDecodebuf_hdrBuf (s : State) : (beginDecodebuf s).hdrBuf = s.hdrBuf := rfl
@[simp] theorem beginDecodebuf_bodyBuf (s : State) : (beginDecodebuf s).bodyBuf = s.bodyBuf := rfl
@[simp] theorem beginDecodebuf_tr1Buf (s : State) : (beginDecodebuf s).tr1Buf = s.tr1Buf := rfl
@[simp] theorem beginDecodebuf_tr2Buf (s : State) : (beginDecodebuf s).tr2Buf = s.tr2Buf := rfl
@[simp] theorem beginDecodebuf_bodyLen (s : State) : (beginDecodebuf s).bodyLen = s.bodyLen := rfl
@[simp] theorem beginDecodebuf_tr2Len (s : State) : (beginDecodebuf s).tr2Len = s.tr2Len := rfl
@[simp] theorem beginDecodebuf_rawValid (s : State) : (beginDecodebuf s).rawValid = false := rfl
@[simp] theorem beginDecodebuf_hType (s : State) : (beginDecodebuf s).hType = s.hType := rfl
@[simp] theorem beginDecodebuf_hToff (s : State) : (beginDecodebuf s).hToff = s.hToff := rfl
@[simp] theorem beginDecodebuf_hCreator (s : State) : (beginDecodebuf s).hCreator = s.hCreator := rfl
@[simp] theorem beginDecodebuf_hDest (s : State) : (beginDecodebuf s).hDest = s.hDest := rfl
@[simp] theorem beginDecodebuf_hSeq (s : State) : (beginDecodebuf s).hSeq = s.hSeq := rfl
@[simp] theorem beginDecodebuf_hSeries (s : State) : (beginDecodebuf s).hSeries = s.hSeries := rfl
@[simp] theorem beginDecodebuf_hdrValid (s : State) : (beginDecodebuf s).hdrValid = false := rfl
@[simp] theorem beginDecodebuf_tKeyid (s : State) : (beginDecodebuf s).tKeyid = s.tKeyid := rfl
@[simp] theorem beginDecodebuf_tAuthsz (s : State) : (beginDecodebuf s).tAuthsz = s.tAuthsz := rfl
@[simp] theorem beginDecodebuf_tAuthval (s : State) : (beginDecodebuf s).tAuthval = s.tAuthval := rfl
@[simp] theorem beginDecodebuf_tCksum (s : State) : (beginDecodebuf s).tCksum = s.tCksum := rfl
@[simp] theorem beginDecodebuf_v (s : State) : (beginDecodebuf s).v = s.v := rfl
@[simp] theorem beginDecodebuf_decoded (s : State) : (beginDecodebuf s).decoded = false := rfl
@[simp] theorem beginDecodebuf_crcChecked (s : State) : (beginDecodebuf s).crcChecked = false := rfl
@[simp] theorem beginDecodebuf_crcOk (s : State) : (beginDecodebuf s).crcOk = false := rfl
@[simp] theorem beginDecodebuf_degraded (s : State) : (beginDecodebuf s).degraded = false := rfl
@[simp] theorem beginDecodebuf_skipList (s : State) : (beginDecodebuf s).skipList = [] := rfl
@[simp] theorem beginDecodebuf_cfg (s : State) : (beginDecodebuf s).cfg = s.cfg := rfl
@[simp] theorem beginDecodebuf_cause (s : State) : (beginDecodebuf s).cause = 0 := rfl
@[simp] theorem beginDecodebuf_subcause (s : State) : (beginDecodebuf s).subcause = 0 := rfl
@[simp] theorem beginDecodebuf_epos (s : State) : (beginDecodebuf s).epos = 0 := rfl
@[simp] theorem beginDecodebuf_warn (s : State) : (beginDecodebuf s).warn = 0 := rfl
@[simp] theorem beginDecodebuf_txBuf (s : State) : (beginDecodebuf s).txBuf = s.txBuf := rfl
@[simp] theorem beginDecodebuf_txLen (s : State) : (beginDecodebuf s).txLen = s.txLen := rfl
@[simp] theorem beginDecodebuf_txValid (s : State) : (beginDecodebuf s).txValid = s.txValid := rfl
@[simp] theorem beginDecodebuf_fifo (s : State) : (beginDecodebuf s).fifo = s.fifo := rfl
@[simp] theorem beginDecodebuf_stream (s : State) : (beginDecodebuf s).stream = s.stream := rfl
@[simp] theorem beginDecodebuf_inputs (s : State) : (beginDecodebuf s).inputs = s.inputs := rfl
@[simp] theorem beginDecodebuf_result (s : State) : (beginDecodebuf s).result = s.result := rfl

/-! ## `failSplit` -/

@[simp] theorem failSplit_phase (c : Cfg) (sub : MalformedSub) (p : Nat) (s : State) : (failSplit c sub p s).phase = Phase.idle := rfl
@[simp] theorem failSplit_spos (c : Cfg) (sub : MalformedSub) (p : Nat) (s : State) : (failSplit c sub p s).spos = s.spos := rfl
@[simp] theorem failSplit_fstart (c : Cfg) (sub : MalformedSub) (p : Nat) (s : State) : (failSplit c sub p s).fstart = s.fstart := rfl
@[simp] theorem failSplit_desync (c : Cfg) (sub : MalformedSub) (p : Nat) (s : State) : (failSplit c sub p s).desync = s.desync := rfl
@[simp] theorem failSplit_hdrBuf (c : Cfg) (sub : MalformedSub) (p : Nat) (s : State) : (failSplit c sub p s).hdrBuf = s.hdrBuf := rfl
@[simp] theorem failSplit_bodyBuf (c : Cfg) (sub : MalformedSub) (p : Nat) (s : State) : (failSplit c sub p s).bodyBuf = s.bodyBuf := rfl
@[simp] theorem failSplit_tr1Buf (c : Cfg) (sub : MalformedSub) (p : Nat) (s : State) : (failSplit c sub p s).tr1Buf = s.tr1Buf := rfl
@[simp] theorem failSplit_tr2Buf (c : Cfg) (sub : MalformedSub) (p : Nat) (s : State) : (failSplit c sub p s).tr2Buf = s.tr2Buf := rfl
@[simp] theorem failSplit_bodyLen (c : Cfg) (sub : MalformedSub) (p : Nat) (s : State) : (failSplit c sub p s).bodyLen = s.bodyLen := rfl
@[simp] theorem failSplit_tr2Len (c : Cfg) (sub : MalformedSub) (p : Nat) (s : State) : (failSplit c sub p s).tr2Len = s.tr2Len := rfl
@[simp] theorem failSplit_rawValid (c : Cfg) (sub : MalformedSub) (p : Nat) (s : State) : (failSplit c sub p s).rawValid = s.rawValid := rfl
@[simp] theorem failSplit_hType (c : Cfg) (sub : MalformedSub) (p : Nat) (s : State) : (failSplit c sub p s).hType = s.hType := rfl
@[simp] theorem failSplit_hToff (c : Cfg) (sub : MalformedSub) (p : Nat) (s : State) : (failSplit c sub p s).hToff = s.hToff := rfl
@[simp] theorem failSplit_hCreator (c : Cfg) (sub : MalformedSub) (p : Nat) (s : State) : (failSplit c sub p s).hCreator = s.hCreator := rfl
@[simp] theorem failSplit_hDest (c : Cfg) (sub : MalformedSub) (p : Nat) (s : State) : (failSplit c sub p s).hDest = s.hDest := rfl
@[simp] theorem failSplit_hSeq (c : Cfg) (sub : MalformedSub) (p : Nat) (s : State) : (failSplit c sub p s).hSeq = s.hSeq := rfl
@[simp] theorem failSplit_hSeries (c : Cfg) (sub : MalformedSub) (p : Nat) (s : State) : (failSplit c sub p s).hSeries = s.hSeries := rfl
@[simp] theorem failSplit_hdrValid (c : Cfg) (sub : MalformedSub) (p : Nat) (s : State) : (failSplit c sub p s).hdrValid = s.hdrValid := rfl
@[simp] theorem failSplit_tKeyid (c : Cfg) (sub : MalformedSub) (p : Nat) (s : State) : (failSplit c sub p s).tKeyid = s.tKeyid := rfl
@[simp] theorem failSplit_tAuthsz (c : Cfg) (sub : MalformedSub) (p : Nat) (s : State) : (failSplit c sub p s).tAuthsz = s.tAuthsz := rfl
@[simp] theorem failSplit_tAuthval (c : Cfg) (sub : MalformedSub) (p : Nat) (s : State) : (failSplit c sub p s).tAuthval = s.tAuthval := rfl
@[simp] theorem failSplit_tCksum (c : Cfg) (sub : MalformedSub) (p : Nat) (s : State) : (failSplit c sub p s).tCksum = s.tCksum := rfl
@[simp] theorem failSplit_v (c : Cfg) (sub : MalformedSub) (p : Nat) (s : State) : (failSplit c sub p s).v = s.v := rfl
@[simp] theorem failSplit_decoded (c : Cfg) (sub : MalformedSub) (p : Nat) (s : State) : (failSplit c sub p s).decoded = s.decoded := rfl
@[simp] theorem failSplit_crcChecked (c : Cfg) (sub : MalformedSub) (p : Nat) (s : State) : (failSplit c sub p s).crcChecked = s.crcChecked := rfl
@[simp] theorem failSplit_crcOk (c : Cfg) (sub : MalformedSub) (p : Nat) (s : State) : (failSplit c sub p s).crcOk = s.crcOk := rfl
@[simp] theorem failSplit_degraded (c : Cfg) (sub : MalformedSub) (p : Nat) (s : State) : (failSplit c sub p s).degraded = s.degraded := rfl
@[simp] theorem failSplit_skipList (c : Cfg) (sub : MalformedSub) (p : Nat) (s : State) : (failSplit c sub p s).skipList = s.skipList := rfl
@[simp] theorem failSplit_cfg (c : Cfg) (sub : MalformedSub) (p : Nat) (s : State) : (failSplit c sub p s).cfg = s.cfg := rfl
@[simp] theorem failSplit_cause (c : Cfg) (sub : MalformedSub) (p : Nat) (s : State) : (failSplit c sub p s).cause = 3 := rfl
@[simp] theorem failSplit_subcause (c : Cfg) (sub : MalformedSub) (p : Nat) (s : State) : (failSplit c sub p s).subcause = sub.code := rfl
@[simp] theorem failSplit_epos (c : Cfg) (sub : MalformedSub) (p : Nat) (s : State) : (failSplit c sub p s).epos = eposOf c p := rfl
@[simp] theorem failSplit_warn (c : Cfg) (sub : MalformedSub) (p : Nat) (s : State) : (failSplit c sub p s).warn = s.warn := rfl
@[simp] theorem failSplit_txBuf (c : Cfg) (sub : MalformedSub) (p : Nat) (s : State) : (failSplit c sub p s).txBuf = s.txBuf := rfl
@[simp] theorem failSplit_txLen (c : Cfg) (sub : MalformedSub) (p : Nat) (s : State) : (failSplit c sub p s).txLen = s.txLen := rfl
@[simp] theorem failSplit_txValid (c : Cfg) (sub : MalformedSub) (p : Nat) (s : State) : (failSplit c sub p s).txValid = s.txValid := rfl
@[simp] theorem failSplit_fifo (c : Cfg) (sub : MalformedSub) (p : Nat) (s : State) : (failSplit c sub p s).fifo = s.fifo := rfl
@[simp] theorem failSplit_stream (c : Cfg) (sub : MalformedSub) (p : Nat) (s : State) : (failSplit c sub p s).stream = s.stream := rfl
@[simp] theorem failSplit_inputs (c : Cfg) (sub : MalformedSub) (p : Nat) (s : State) : (failSplit c sub p s).inputs = s.inputs := rfl
@[simp] theorem failSplit_result (c : Cfg) (sub : MalformedSub) (p : Nat) (s : State) : (failSplit c sub p s).result = s.result := rfl

/-! ## `setRegions` -/

@[simp] theorem setRegions_phase (r : Regions) (s : State) : (setRegions r s).phase = Phase.done := rfl
@[simp] theorem setRegions_spos (r : Regions) (s : State) : (setRegions r s).spos = s.spos := rfl
@[simp] theorem setRegions_fstart (r : Regions) (s : State) : (setRegions r s).fstart = s.fstart := rfl
@[simp] theorem setRegions_desync (r : Regions) (s : State) : (setRegions r s).desync = s.desync := rfl
@[simp] theorem setRegions_hdrBuf (r : Regions) (s : State) : (setRegions r s).hdrBuf = Memory.ofBytes r.hdr := rfl
@[simp] theorem setRegions_bodyBuf (r : Regions) (s : State) : (setRegions r s).bodyBuf = Memory.ofBytes r.body := rfl
@[simp] theorem setRegions_tr1Buf (r : Regions) (s : State) : (setRegions r s).tr1Buf = Memory.ofBytes r.tr1 := rfl
@[simp] theorem setRegions_tr2Buf (r : Regions) (s : State) : (setRegions r s).tr2Buf = Memory.ofBytes r.tr2 := rfl
@[simp] theorem setRegions_bodyLen (r : Regions) (s : State) : (setRegions r s).bodyLen = r.body.length := rfl
@[simp] theorem setRegions_tr2Len (r : Regions) (s : State) : (setRegions r s).tr2Len = r.tr2.length := rfl
@[simp] theorem setRegions_rawValid (r : Regions) (s : State) : (setRegions r s).rawValid = true := rfl
@[simp] theorem setRegions_hType (r : Regions) (s : State) : (setRegions r s).hType = s.hType := rfl
@[simp] theorem setRegions_hToff (r : Regions) (s : State) : (setRegions r s).hToff = s.hToff := rfl
@[simp] theorem setRegions_hCreator (r : Regions) (s : State) : (setRegions r s).hCreator = s.hCreator := rfl
@[simp] theorem setRegions_hDest (r : Regions) (s : State) : (setRegions r s).hDest = s.hDest := rfl
@[simp] theorem setRegions_hSeq (r : Regions) (s : State) : (setRegions r s).hSeq = s.hSeq := rfl
@[simp] theorem setRegions_hSeries (r : Regions) (s : State) : (setRegions r s).hSeries = s.hSeries := rfl
@[simp] theorem setRegions_hdrValid (r : Regions) (s : State) : (setRegions r s).hdrValid = s.hdrValid := rfl
@[simp] theorem setRegions_tKeyid (r : Regions) (s : State) : (setRegions r s).tKeyid = s.tKeyid := rfl
@[simp] theorem setRegions_tAuthsz (r : Regions) (s : State) : (setRegions r s).tAuthsz = s.tAuthsz := rfl
@[simp] theorem setRegions_tAuthval (r : Regions) (s : State) : (setRegions r s).tAuthval = s.tAuthval := rfl
@[simp] theorem setRegions_tCksum (r : Regions) (s : State) : (setRegions r s).tCksum = s.tCksum := rfl
@[simp] theorem setRegions_v (r : Regions) (s : State) : (setRegions r s).v = s.v := rfl
@[simp] theorem setRegions_decoded (r : Regions) (s : State) : (setRegions r s).decoded = s.decoded := rfl
@[simp] theorem setRegions_crcChecked (r : Regions) (s : State) : (setRegions r s).crcChecked = s.crcChecked := rfl
@[simp] theorem setRegions_crcOk (r : Regions) (s : State) : (setRegions r s).crcOk = s.crcOk := rfl
@[simp] theorem setRegions_degraded (r : Regions) (s : State) : (setRegions r s).degraded = s.degraded := rfl
@[simp] theorem setRegions_skipList (r : Regions) (s : State) : (setRegions r s).skipList = s.skipList := rfl
@[simp] theorem setRegions_cfg (r : Regions) (s : State) : (setRegions r s).cfg = s.cfg := rfl
@[simp] theorem setRegions_cause (r : Regions) (s : State) : (setRegions r s).cause = s.cause := rfl
@[simp] theorem setRegions_subcause (r : Regions) (s : State) : (setRegions r s).subcause = s.subcause := rfl
@[simp] theorem setRegions_epos (r : Regions) (s : State) : (setRegions r s).epos = s.epos := rfl
@[simp] theorem setRegions_warn (r : Regions) (s : State) : (setRegions r s).warn = s.warn := rfl
@[simp] theorem setRegions_txBuf (r : Regions) (s : State) : (setRegions r s).txBuf = s.txBuf := rfl
@[simp] theorem setRegions_txLen (r : Regions) (s : State) : (setRegions r s).txLen = s.txLen := rfl
@[simp] theorem setRegions_txValid (r : Regions) (s : State) : (setRegions r s).txValid = s.txValid := rfl
@[simp] theorem setRegions_fifo (r : Regions) (s : State) : (setRegions r s).fifo = s.fifo := rfl
@[simp] theorem setRegions_stream (r : Regions) (s : State) : (setRegions r s).stream = s.stream := rfl
@[simp] theorem setRegions_inputs (r : Regions) (s : State) : (setRegions r s).inputs = s.inputs := rfl
@[simp] theorem setRegions_result (r : Regions) (s : State) : (setRegions r s).result = s.result := rfl

/-! ## `setHeader` -/

@[simp] theorem setHeader_phase (h : Header) (s : State) : (setHeader h s).phase = s.phase := rfl
@[simp] theorem setHeader_spos (h : Header) (s : State) : (setHeader h s).spos = s.spos := rfl
@[simp] theorem setHeader_fstart (h : Header) (s : State) : (setHeader h s).fstart = s.fstart := rfl
@[simp] theorem setHeader_desync (h : Header) (s : State) : (setHeader h s).desync = s.desync := rfl
@[simp] theorem setHeader_hdrBuf (h : Header) (s : State) : (setHeader h s).hdrBuf = s.hdrBuf := rfl
@[simp] theorem setHeader_bodyBuf (h : Header) (s : State) : (setHeader h s).bodyBuf = s.bodyBuf := rfl
@[simp] theorem setHeader_tr1Buf (h : Header) (s : State) : (setHeader h s).tr1Buf = s.tr1Buf := rfl
@[simp] theorem setHeader_tr2Buf (h : Header) (s : State) : (setHeader h s).tr2Buf = s.tr2Buf := rfl
@[simp] theorem setHeader_bodyLen (h : Header) (s : State) : (setHeader h s).bodyLen = s.bodyLen := rfl
@[simp] theorem setHeader_tr2Len (h : Header) (s : State) : (setHeader h s).tr2Len = s.tr2Len := rfl
@[simp] theorem setHeader_rawValid (h : Header) (s : State) : (setHeader h s).rawValid = s.rawValid := rfl
@[simp] theorem setHeader_hType (h : Header) (s : State) : (setHeader h s).hType = BitVec.ofNat 32 h.ty.code := rfl
@[simp] theorem setHeader_hToff (h : Header) (s : State) : (setHeader h s).hToff = h.toff := rfl
@[simp] theorem setHeader_hCreator (h : Header) (s : State) : (setHeader h s).hCreator = h.creator := rfl
@[simp] theorem setHeader_hDest (h : Header) (s : State) : (setHeader h s).hDest = h.dest := rfl
@[simp] theorem setHeader_hSeq (h : Header) (s : State) : (setHeader h s).hSeq = h.seq := rfl
@[simp] theorem setHeader_hSeries (h : Header) (s : State) : (setHeader h s).hSeries = h.series := rfl
@[simp] theorem setHeader_hdrValid (h : Header) (s : State) : (setHeader h s).hdrValid = true := rfl
@[simp] theorem setHeader_tKeyid (h : Header) (s : State) : (setHeader h s).tKeyid = s.tKeyid := rfl
@[simp] theorem setHeader_tAuthsz (h : Header) (s : State) : (setHeader h s).tAuthsz = s.tAuthsz := rfl
@[simp] theorem setHeader_tAuthval (h : Header) (s : State) : (setHeader h s).tAuthval = s.tAuthval := rfl
@[simp] theorem setHeader_tCksum (h : Header) (s : State) : (setHeader h s).tCksum = s.tCksum := rfl
@[simp] theorem setHeader_v (h : Header) (s : State) : (setHeader h s).v = s.v := rfl
@[simp] theorem setHeader_decoded (h : Header) (s : State) : (setHeader h s).decoded = s.decoded := rfl
@[simp] theorem setHeader_crcChecked (h : Header) (s : State) : (setHeader h s).crcChecked = s.crcChecked := rfl
@[simp] theorem setHeader_crcOk (h : Header) (s : State) : (setHeader h s).crcOk = s.crcOk := rfl
@[simp] theorem setHeader_degraded (h : Header) (s : State) : (setHeader h s).degraded = s.degraded := rfl
@[simp] theorem setHeader_skipList (h : Header) (s : State) : (setHeader h s).skipList = s.skipList := rfl
@[simp] theorem setHeader_cfg (h : Header) (s : State) : (setHeader h s).cfg = s.cfg := rfl
@[simp] theorem setHeader_cause (h : Header) (s : State) : (setHeader h s).cause = s.cause := rfl
@[simp] theorem setHeader_subcause (h : Header) (s : State) : (setHeader h s).subcause = s.subcause := rfl
@[simp] theorem setHeader_epos (h : Header) (s : State) : (setHeader h s).epos = s.epos := rfl
@[simp] theorem setHeader_warn (h : Header) (s : State) : (setHeader h s).warn = s.warn := rfl
@[simp] theorem setHeader_txBuf (h : Header) (s : State) : (setHeader h s).txBuf = s.txBuf := rfl
@[simp] theorem setHeader_txLen (h : Header) (s : State) : (setHeader h s).txLen = s.txLen := rfl
@[simp] theorem setHeader_txValid (h : Header) (s : State) : (setHeader h s).txValid = s.txValid := rfl
@[simp] theorem setHeader_fifo (h : Header) (s : State) : (setHeader h s).fifo = s.fifo := rfl
@[simp] theorem setHeader_stream (h : Header) (s : State) : (setHeader h s).stream = s.stream := rfl
@[simp] theorem setHeader_inputs (h : Header) (s : State) : (setHeader h s).inputs = s.inputs := rfl
@[simp] theorem setHeader_result (h : Header) (s : State) : (setHeader h s).result = s.result := rfl

/-! ## `setTrailer` -/

@[simp] theorem setTrailer_phase (t : Trailer) (s : State) : (setTrailer t s).phase = s.phase := rfl
@[simp] theorem setTrailer_spos (t : Trailer) (s : State) : (setTrailer t s).spos = s.spos := rfl
@[simp] theorem setTrailer_fstart (t : Trailer) (s : State) : (setTrailer t s).fstart = s.fstart := rfl
@[simp] theorem setTrailer_desync (t : Trailer) (s : State) : (setTrailer t s).desync = s.desync := rfl
@[simp] theorem setTrailer_hdrBuf (t : Trailer) (s : State) : (setTrailer t s).hdrBuf = s.hdrBuf := rfl
@[simp] theorem setTrailer_bodyBuf (t : Trailer) (s : State) : (setTrailer t s).bodyBuf = s.bodyBuf := rfl
@[simp] theorem setTrailer_tr1Buf (t : Trailer) (s : State) : (setTrailer t s).tr1Buf = s.tr1Buf := rfl
@[simp] theorem setTrailer_tr2Buf (t : Trailer) (s : State) : (setTrailer t s).tr2Buf = s.tr2Buf := rfl
@[simp] theorem setTrailer_bodyLen (t : Trailer) (s : State) : (setTrailer t s).bodyLen = s.bodyLen := rfl
@[simp] theorem setTrailer_tr2Len (t : Trailer) (s : State) : (setTrailer t s).tr2Len = s.tr2Len := rfl
@[simp] theorem setTrailer_rawValid (t : Trailer) (s : State) : (setTrailer t s).rawValid = s.rawValid := rfl
@[simp] theorem setTrailer_hType (t : Trailer) (s : State) : (setTrailer t s).hType = s.hType := rfl
@[simp] theorem setTrailer_hToff (t : Trailer) (s : State) : (setTrailer t s).hToff = s.hToff := rfl
@[simp] theorem setTrailer_hCreator (t : Trailer) (s : State) : (setTrailer t s).hCreator = s.hCreator := rfl
@[simp] theorem setTrailer_hDest (t : Trailer) (s : State) : (setTrailer t s).hDest = s.hDest := rfl
@[simp] theorem setTrailer_hSeq (t : Trailer) (s : State) : (setTrailer t s).hSeq = s.hSeq := rfl
@[simp] theorem setTrailer_hSeries (t : Trailer) (s : State) : (setTrailer t s).hSeries = s.hSeries := rfl
@[simp] theorem setTrailer_hdrValid (t : Trailer) (s : State) : (setTrailer t s).hdrValid = s.hdrValid := rfl
@[simp] theorem setTrailer_tKeyid (t : Trailer) (s : State) : (setTrailer t s).tKeyid = t.keyid := rfl
@[simp] theorem setTrailer_tAuthsz (t : Trailer) (s : State) : (setTrailer t s).tAuthsz = t.authsz := rfl
@[simp] theorem setTrailer_tAuthval (t : Trailer) (s : State) : (setTrailer t s).tAuthval = t.authval := rfl
@[simp] theorem setTrailer_tCksum (t : Trailer) (s : State) : (setTrailer t s).tCksum = t.cksum := rfl
@[simp] theorem setTrailer_v (t : Trailer) (s : State) : (setTrailer t s).v = s.v := rfl
@[simp] theorem setTrailer_decoded (t : Trailer) (s : State) : (setTrailer t s).decoded = true := rfl
@[simp] theorem setTrailer_crcChecked (t : Trailer) (s : State) : (setTrailer t s).crcChecked = s.crcChecked := rfl
@[simp] theorem setTrailer_crcOk (t : Trailer) (s : State) : (setTrailer t s).crcOk = s.crcOk := rfl
@[simp] theorem setTrailer_degraded (t : Trailer) (s : State) : (setTrailer t s).degraded = s.degraded := rfl
@[simp] theorem setTrailer_skipList (t : Trailer) (s : State) : (setTrailer t s).skipList = s.skipList := rfl
@[simp] theorem setTrailer_cfg (t : Trailer) (s : State) : (setTrailer t s).cfg = s.cfg := rfl
@[simp] theorem setTrailer_cause (t : Trailer) (s : State) : (setTrailer t s).cause = s.cause := rfl
@[simp] theorem setTrailer_subcause (t : Trailer) (s : State) : (setTrailer t s).subcause = s.subcause := rfl
@[simp] theorem setTrailer_epos (t : Trailer) (s : State) : (setTrailer t s).epos = s.epos := rfl
@[simp] theorem setTrailer_warn (t : Trailer) (s : State) : (setTrailer t s).warn = s.warn := rfl
@[simp] theorem setTrailer_txBuf (t : Trailer) (s : State) : (setTrailer t s).txBuf = s.txBuf := rfl
@[simp] theorem setTrailer_txLen (t : Trailer) (s : State) : (setTrailer t s).txLen = s.txLen := rfl
@[simp] theorem setTrailer_txValid (t : Trailer) (s : State) : (setTrailer t s).txValid = s.txValid := rfl
@[simp] theorem setTrailer_fifo (t : Trailer) (s : State) : (setTrailer t s).fifo = s.fifo := rfl
@[simp] theorem setTrailer_stream (t : Trailer) (s : State) : (setTrailer t s).stream = s.stream := rfl
@[simp] theorem setTrailer_inputs (t : Trailer) (s : State) : (setTrailer t s).inputs = s.inputs := rfl
@[simp] theorem setTrailer_result (t : Trailer) (s : State) : (setTrailer t s).result = s.result := rfl

/-! ## `setBody` -/

@[simp] theorem setBody_phase (b : Body) (k n : Nat) (s : State) : (setBody b k n s).phase = s.phase := rfl
@[simp] theorem setBody_spos (b : Body) (k n : Nat) (s : State) : (setBody b k n s).spos = s.spos := rfl
@[simp] theorem setBody_fstart (b : Body) (k n : Nat) (s : State) : (setBody b k n s).fstart = s.fstart := rfl
@[simp] theorem setBody_desync (b : Body) (k n : Nat) (s : State) : (setBody b k n s).desync = s.desync := rfl
@[simp] theorem setBody_hdrBuf (b : Body) (k n : Nat) (s : State) : (setBody b k n s).hdrBuf = s.hdrBuf := rfl
@[simp] theorem setBody_bodyBuf (b : Body) (k n : Nat) (s : State) : (setBody b k n s).bodyBuf = s.bodyBuf := rfl
@[simp] theorem setBody_tr1Buf (b : Body) (k n : Nat) (s : State) : (setBody b k n s).tr1Buf = s.tr1Buf := rfl
@[simp] theorem setBody_tr2Buf (b : Body) (k n : Nat) (s : State) : (setBody b k n s).tr2Buf = s.tr2Buf := rfl
@[simp] theorem setBody_bodyLen (b : Body) (k n : Nat) (s : State) : (setBody b k n s).bodyLen = s.bodyLen := rfl
@[simp] theorem setBody_tr2Len (b : Body) (k n : Nat) (s : State) : (setBody b k n s).tr2Len = s.tr2Len := rfl
@[simp] theorem setBody_rawValid (b : Body) (k n : Nat) (s : State) : (setBody b k n s).rawValid = s.rawValid := rfl
@[simp] theorem setBody_hType (b : Body) (k n : Nat) (s : State) : (setBody b k n s).hType = s.hType := rfl
@[simp] theorem setBody_hToff (b : Body) (k n : Nat) (s : State) : (setBody b k n s).hToff = s.hToff := rfl
@[simp] theorem setBody_hCreator (b : Body) (k n : Nat) (s : State) : (setBody b k n s).hCreator = s.hCreator := rfl
@[simp] theorem setBody_hDest (b : Body) (k n : Nat) (s : State) : (setBody b k n s).hDest = s.hDest := rfl
@[simp] theorem setBody_hSeq (b : Body) (k n : Nat) (s : State) : (setBody b k n s).hSeq = s.hSeq := rfl
@[simp] theorem setBody_hSeries (b : Body) (k n : Nat) (s : State) : (setBody b k n s).hSeries = s.hSeries := rfl
@[simp] theorem setBody_hdrValid (b : Body) (k n : Nat) (s : State) : (setBody b k n s).hdrValid = s.hdrValid := rfl
@[simp] theorem setBody_tKeyid (b : Body) (k n : Nat) (s : State) : (setBody b k n s).tKeyid = s.tKeyid := rfl
@[simp] theorem setBody_tAuthsz (b : Body) (k n : Nat) (s : State) : (setBody b k n s).tAuthsz = s.tAuthsz := rfl
@[simp] theorem setBody_tAuthval (b : Body) (k n : Nat) (s : State) : (setBody b k n s).tAuthval = s.tAuthval := rfl
@[simp] theorem setBody_tCksum (b : Body) (k n : Nat) (s : State) : (setBody b k n s).tCksum = s.tCksum := rfl
@[simp] theorem setBody_v (b : Body) (k n : Nat) (s : State) : (setBody b k n s).v = b.v := rfl
@[simp] theorem setBody_decoded (b : Body) (k n : Nat) (s : State) : (setBody b k n s).decoded = s.decoded := rfl
@[simp] theorem setBody_crcChecked (b : Body) (k n : Nat) (s : State) : (setBody b k n s).crcChecked = s.crcChecked := rfl
@[simp] theorem setBody_crcOk (b : Body) (k n : Nat) (s : State) : (setBody b k n s).crcOk = s.crcOk := rfl
@[simp] theorem setBody_degraded (b : Body) (k n : Nat) (s : State) : (setBody b k n s).degraded = !b.skips.isEmpty := rfl
@[simp] theorem setBody_skipList (b : Body) (k n : Nat) (s : State) : (setBody b k n s).skipList = b.skips := rfl
@[simp] theorem setBody_cfg (b : Body) (k n : Nat) (s : State) : (setBody b k n s).cfg = s.cfg := rfl
@[simp] theorem setBody_cause (b : Body) (k n : Nat) (s : State) : (setBody b k n s).cause = s.cause := rfl
@[simp] theorem setBody_subcause (b : Body) (k n : Nat) (s : State) : (setBody b k n s).subcause = s.subcause := rfl
@[simp] theorem setBody_epos (b : Body) (k n : Nat) (s : State) : (setBody b k n s).epos = s.epos := rfl
@[simp] theorem setBody_warn (b : Body) (k n : Nat) (s : State) : (setBody b k n s).warn = s.warn ||| b.warn ||| warnIf warnBodylen (k != n) := rfl
@[simp] theorem setBody_txBuf (b : Body) (k n : Nat) (s : State) : (setBody b k n s).txBuf = s.txBuf := rfl
@[simp] theorem setBody_txLen (b : Body) (k n : Nat) (s : State) : (setBody b k n s).txLen = s.txLen := rfl
@[simp] theorem setBody_txValid (b : Body) (k n : Nat) (s : State) : (setBody b k n s).txValid = s.txValid := rfl
@[simp] theorem setBody_fifo (b : Body) (k n : Nat) (s : State) : (setBody b k n s).fifo = s.fifo := rfl
@[simp] theorem setBody_stream (b : Body) (k n : Nat) (s : State) : (setBody b k n s).stream = s.stream := rfl
@[simp] theorem setBody_inputs (b : Body) (k n : Nat) (s : State) : (setBody b k n s).inputs = s.inputs := rfl
@[simp] theorem setBody_result (b : Body) (k n : Nat) (s : State) : (setBody b k n s).result = s.result := rfl

/-! ## `checkCrc` -/

@[simp] theorem checkCrc_phase (c : Cfg) (f : Bytes) (s : State) : (checkCrc c f s).phase = s.phase := rfl
@[simp] theorem checkCrc_spos (c : Cfg) (f : Bytes) (s : State) : (checkCrc c f s).spos = s.spos := rfl
@[simp] theorem checkCrc_fstart (c : Cfg) (f : Bytes) (s : State) : (checkCrc c f s).fstart = s.fstart := rfl
@[simp] theorem checkCrc_desync (c : Cfg) (f : Bytes) (s : State) : (checkCrc c f s).desync = s.desync := rfl
@[simp] theorem checkCrc_hdrBuf (c : Cfg) (f : Bytes) (s : State) : (checkCrc c f s).hdrBuf = s.hdrBuf := rfl
@[simp] theorem checkCrc_bodyBuf (c : Cfg) (f : Bytes) (s : State) : (checkCrc c f s).bodyBuf = s.bodyBuf := rfl
@[simp] theorem checkCrc_tr1Buf (c : Cfg) (f : Bytes) (s : State) : (checkCrc c f s).tr1Buf = s.tr1Buf := rfl
@[simp] theorem checkCrc_tr2Buf (c : Cfg) (f : Bytes) (s : State) : (checkCrc c f s).tr2Buf = s.tr2Buf := rfl
@[simp] theorem checkCrc_bodyLen (c : Cfg) (f : Bytes) (s : State) : (checkCrc c f s).bodyLen = s.bodyLen := rfl
@[simp] theorem checkCrc_tr2Len (c : Cfg) (f : Bytes) (s : State) : (checkCrc c f s).tr2Len = s.tr2Len := rfl
@[simp] theorem checkCrc_rawValid (c : Cfg) (f : Bytes) (s : State) : (checkCrc c f s).rawValid = s.rawValid := rfl
@[simp] theorem checkCrc_hType (c : Cfg) (f : Bytes) (s : State) : (checkCrc c f s).hType = s.hType := rfl
@[simp] theorem checkCrc_hToff (c : Cfg) (f : Bytes) (s : State) : (checkCrc c f s).hToff = s.hToff := rfl
@[simp] theorem checkCrc_hCreator (c : Cfg) (f : Bytes) (s : State) : (checkCrc c f s).hCreator = s.hCreator := rfl
@[simp] theorem checkCrc_hDest (c : Cfg) (f : Bytes) (s : State) : (checkCrc c f s).hDest = s.hDest := rfl
@[simp] theorem checkCrc_hSeq (c : Cfg) (f : Bytes) (s : State) : (checkCrc c f s).hSeq = s.hSeq := rfl
@[simp] theorem checkCrc_hSeries (c : Cfg) (f : Bytes) (s : State) : (checkCrc c f s).hSeries = s.hSeries := rfl
@[simp] theorem checkCrc_hdrValid (c : Cfg) (f : Bytes) (s : State) : (checkCrc c f s).hdrValid = s.hdrValid := rfl
@[simp] theorem checkCrc_tKeyid (c : Cfg) (f : Bytes) (s : State) : (checkCrc c f s).tKeyid = s.tKeyid := rfl
@[simp] theorem checkCrc_tAuthsz (c : Cfg) (f : Bytes) (s : State) : (checkCrc c f s).tAuthsz = s.tAuthsz := rfl
@[simp] theorem checkCrc_tAuthval (c : Cfg) (f : Bytes) (s : State) : (checkCrc c f s).tAuthval = s.tAuthval := rfl
@[simp] theorem checkCrc_tCksum (c : Cfg) (f : Bytes) (s : State) : (checkCrc c f s).tCksum = s.tCksum := rfl
@[simp] theorem checkCrc_v (c : Cfg) (f : Bytes) (s : State) : (checkCrc c f s).v = s.v := rfl
@[simp] theorem checkCrc_decoded (c : Cfg) (f : Bytes) (s : State) : (checkCrc c f s).decoded = s.decoded := rfl
@[simp] theorem checkCrc_crcChecked (c : Cfg) (f : Bytes) (s : State) : (checkCrc c f s).crcChecked = true := rfl
@[simp] theorem checkCrc_crcOk (c : Cfg) (f : Bytes) (s : State) : (checkCrc c f s).crcOk = (c.crc64 (ckin f) == s.tCksum) := rfl
@[simp] theorem checkCrc_degraded (c : Cfg) (f : Bytes) (s : State) : (checkCrc c f s).degraded = s.degraded := rfl
@[simp] theorem checkCrc_skipList (c : Cfg) (f : Bytes) (s : State) : (checkCrc c f s).skipList = s.skipList := rfl
@[simp] theorem checkCrc_cfg (c : Cfg) (f : Bytes) (s : State) : (checkCrc c f s).cfg = s.cfg := rfl
@[simp] theorem checkCrc_cause (c : Cfg) (f : Bytes) (s : State) : (checkCrc c f s).cause = s.cause := rfl
@[simp] theorem checkCrc_subcause (c : Cfg) (f : Bytes) (s : State) : (checkCrc c f s).subcause = s.subcause := rfl
@[simp] theorem checkCrc_epos (c : Cfg) (f : Bytes) (s : State) : (checkCrc c f s).epos = s.epos := rfl
@[simp] theorem checkCrc_warn (c : Cfg) (f : Bytes) (s : State) : (checkCrc c f s).warn = s.warn := rfl
@[simp] theorem checkCrc_txBuf (c : Cfg) (f : Bytes) (s : State) : (checkCrc c f s).txBuf = s.txBuf := rfl
@[simp] theorem checkCrc_txLen (c : Cfg) (f : Bytes) (s : State) : (checkCrc c f s).txLen = s.txLen := rfl
@[simp] theorem checkCrc_txValid (c : Cfg) (f : Bytes) (s : State) : (checkCrc c f s).txValid = s.txValid := rfl
@[simp] theorem checkCrc_fifo (c : Cfg) (f : Bytes) (s : State) : (checkCrc c f s).fifo = s.fifo := rfl
@[simp] theorem checkCrc_stream (c : Cfg) (f : Bytes) (s : State) : (checkCrc c f s).stream = s.stream := rfl
@[simp] theorem checkCrc_inputs (c : Cfg) (f : Bytes) (s : State) : (checkCrc c f s).inputs = s.inputs := rfl
@[simp] theorem checkCrc_result (c : Cfg) (f : Bytes) (s : State) : (checkCrc c f s).result = s.result := rfl

/-! ## `startRead` -/

@[simp] theorem startRead_phase (s : State) : (startRead s).phase = Phase.wHdr := rfl
@[simp] theorem startRead_spos (s : State) : (startRead s).spos = s.spos := rfl
@[simp] theorem startRead_fstart (s : State) : (startRead s).fstart = s.spos := rfl
@[simp] theorem startRead_desync (s : State) : (startRead s).desync = s.desync := rfl
@[simp] theorem startRead_hdrBuf (s : State) : (startRead s).hdrBuf = s.hdrBuf := rfl
@[simp] theorem startRead_bodyBuf (s : State) : (startRead s).bodyBuf = s.bodyBuf := rfl
@[simp] theorem startRead_tr1Buf (s : State) : (startRead s).tr1Buf = s.tr1Buf := rfl
@[simp] theorem startRead_tr2Buf (s : State) : (startRead s).tr2Buf = s.tr2Buf := rfl
@[simp] theorem startRead_bodyLen (s : State) : (startRead s).bodyLen = 0 := rfl
@[simp] theorem startRead_tr2Len (s : State) : (startRead s).tr2Len = 0 := rfl
@[simp] theorem startRead_rawValid (s : State) : (startRead s).rawValid = false := rfl
@[simp] theorem startRead_hType (s : State) : (startRead s).hType = s.hType := rfl
@[simp] theorem startRead_hToff (s : State) : (startRead s).hToff = s.hToff := rfl
@[simp] theorem startRead_hCreator (s : State) : (startRead s).hCreator = s.hCreator := rfl
@[simp] theorem startRead_hDest (s : State) : (startRead s).hDest = s.hDest := rfl
@[simp] theorem startRead_hSeq (s : State) : (startRead s).hSeq = s.hSeq := rfl
@[simp] theorem startRead_hSeries (s : State) : (startRead s).hSeries = s.hSeries := rfl
@[simp] theorem startRead_hdrValid (s : State) : (startRead s).hdrValid = false := rfl
@[simp] theorem startRead_tKeyid (s : State) : (startRead s).tKeyid = s.tKeyid := rfl
@[simp] theorem startRead_tAuthsz (s : State) : (startRead s).tAuthsz = s.tAuthsz := rfl
@[simp] theorem startRead_tAuthval (s : State) : (startRead s).tAuthval = s.tAuthval := rfl
@[simp] theorem startRead_tCksum (s : State) : (startRead s).tCksum = s.tCksum := rfl
@[simp] theorem startRead_v (s : State) : (startRead s).v = s.v := rfl
@[simp] theorem startRead_decoded (s : State) : (startRead s).decoded = false := rfl
@[simp] theorem startRead_crcChecked (s : State) : (startRead s).crcChecked = false := rfl
@[simp] theorem startRead_crcOk (s : State) : (startRead s).crcOk = false := rfl
@[simp] theorem startRead_degraded (s : State) : (startRead s).degraded = s.degraded := rfl
@[simp] theorem startRead_skipList (s : State) : (startRead s).skipList = s.skipList := rfl
@[simp] theorem startRead_cfg (s : State) : (startRead s).cfg = s.cfg := rfl
@[simp] theorem startRead_cause (s : State) : (startRead s).cause = 0 := rfl
@[simp] theorem startRead_subcause (s : State) : (startRead s).subcause = 0 := rfl
@[simp] theorem startRead_epos (s : State) : (startRead s).epos = 0 := rfl
@[simp] theorem startRead_warn (s : State) : (startRead s).warn = s.warn := rfl
@[simp] theorem startRead_txBuf (s : State) : (startRead s).txBuf = s.txBuf := rfl
@[simp] theorem startRead_txLen (s : State) : (startRead s).txLen = s.txLen := rfl
@[simp] theorem startRead_txValid (s : State) : (startRead s).txValid = s.txValid := rfl
@[simp] theorem startRead_fifo (s : State) : (startRead s).fifo = s.fifo := rfl
@[simp] theorem startRead_stream (s : State) : (startRead s).stream = s.stream := rfl
@[simp] theorem startRead_inputs (s : State) : (startRead s).inputs = s.inputs := rfl
@[simp] theorem startRead_result (s : State) : (startRead s).result = s.result := rfl

/-! ## `consume` -/

@[simp] theorem consume_phase (d : Bytes) (s : State) : (consume d s).phase = s.phase := rfl
@[simp] theorem consume_spos (d : Bytes) (s : State) : (consume d s).spos = s.spos + BitVec.ofNat 64 d.length := rfl
@[simp] theorem consume_fstart (d : Bytes) (s : State) : (consume d s).fstart = s.fstart := rfl
@[simp] theorem consume_desync (d : Bytes) (s : State) : (consume d s).desync = s.desync := rfl
@[simp] theorem consume_hdrBuf (d : Bytes) (s : State) : (consume d s).hdrBuf = s.hdrBuf := rfl
@[simp] theorem consume_bodyBuf (d : Bytes) (s : State) : (consume d s).bodyBuf = s.bodyBuf := rfl
@[simp] theorem consume_tr1Buf (d : Bytes) (s : State) : (consume d s).tr1Buf = s.tr1Buf := rfl
@[simp] theorem consume_tr2Buf (d : Bytes) (s : State) : (consume d s).tr2Buf = s.tr2Buf := rfl
@[simp] theorem consume_bodyLen (d : Bytes) (s : State) : (consume d s).bodyLen = s.bodyLen := rfl
@[simp] theorem consume_tr2Len (d : Bytes) (s : State) : (consume d s).tr2Len = s.tr2Len := rfl
@[simp] theorem consume_rawValid (d : Bytes) (s : State) : (consume d s).rawValid = s.rawValid := rfl
@[simp] theorem consume_hType (d : Bytes) (s : State) : (consume d s).hType = s.hType := rfl
@[simp] theorem consume_hToff (d : Bytes) (s : State) : (consume d s).hToff = s.hToff := rfl
@[simp] theorem consume_hCreator (d : Bytes) (s : State) : (consume d s).hCreator = s.hCreator := rfl
@[simp] theorem consume_hDest (d : Bytes) (s : State) : (consume d s).hDest = s.hDest := rfl
@[simp] theorem consume_hSeq (d : Bytes) (s : State) : (consume d s).hSeq = s.hSeq := rfl
@[simp] theorem consume_hSeries (d : Bytes) (s : State) : (consume d s).hSeries = s.hSeries := rfl
@[simp] theorem consume_hdrValid (d : Bytes) (s : State) : (consume d s).hdrValid = s.hdrValid := rfl
@[simp] theorem consume_tKeyid (d : Bytes) (s : State) : (consume d s).tKeyid = s.tKeyid := rfl
@[simp] theorem consume_tAuthsz (d : Bytes) (s : State) : (consume d s).tAuthsz = s.tAuthsz := rfl
@[simp] theorem consume_tAuthval (d : Bytes) (s : State) : (consume d s).tAuthval = s.tAuthval := rfl
@[simp] theorem consume_tCksum (d : Bytes) (s : State) : (consume d s).tCksum = s.tCksum := rfl
@[simp] theorem consume_v (d : Bytes) (s : State) : (consume d s).v = s.v := rfl
@[simp] theorem consume_decoded (d : Bytes) (s : State) : (consume d s).decoded = s.decoded := rfl
@[simp] theorem consume_crcChecked (d : Bytes) (s : State) : (consume d s).crcChecked = s.crcChecked := rfl
@[simp] theorem consume_crcOk (d : Bytes) (s : State) : (consume d s).crcOk = s.crcOk := rfl
@[simp] theorem consume_degraded (d : Bytes) (s : State) : (consume d s).degraded = s.degraded := rfl
@[simp] theorem consume_skipList (d : Bytes) (s : State) : (consume d s).skipList = s.skipList := rfl
@[simp] theorem consume_cfg (d : Bytes) (s : State) : (consume d s).cfg = s.cfg := rfl
@[simp] theorem consume_cause (d : Bytes) (s : State) : (consume d s).cause = s.cause := rfl
@[simp] theorem consume_subcause (d : Bytes) (s : State) : (consume d s).subcause = s.subcause := rfl
@[simp] theorem consume_epos (d : Bytes) (s : State) : (consume d s).epos = s.epos := rfl
@[simp] theorem consume_warn (d : Bytes) (s : State) : (consume d s).warn = s.warn := rfl
@[simp] theorem consume_txBuf (d : Bytes) (s : State) : (consume d s).txBuf = s.txBuf := rfl
@[simp] theorem consume_txLen (d : Bytes) (s : State) : (consume d s).txLen = s.txLen := rfl
@[simp] theorem consume_txValid (d : Bytes) (s : State) : (consume d s).txValid = s.txValid := rfl
@[simp] theorem consume_fifo (d : Bytes) (s : State) : (consume d s).fifo = s.fifo.drop d.length := rfl
@[simp] theorem consume_stream (d : Bytes) (s : State) : (consume d s).stream = s.stream := rfl
@[simp] theorem consume_inputs (d : Bytes) (s : State) : (consume d s).inputs = s.inputs := rfl
@[simp] theorem consume_result (d : Bytes) (s : State) : (consume d s).result = s.result := rfl

/-! ## `storeBody` -/

@[simp] theorem storeBody_phase (d : Bytes) (s : State) : (storeBody d s).phase = Phase.wTr1 := rfl
@[simp] theorem storeBody_spos (d : Bytes) (s : State) : (storeBody d s).spos = s.spos := rfl
@[simp] theorem storeBody_fstart (d : Bytes) (s : State) : (storeBody d s).fstart = s.fstart := rfl
@[simp] theorem storeBody_desync (d : Bytes) (s : State) : (storeBody d s).desync = s.desync := rfl
@[simp] theorem storeBody_hdrBuf (d : Bytes) (s : State) : (storeBody d s).hdrBuf = s.hdrBuf := rfl
@[simp] theorem storeBody_bodyBuf (d : Bytes) (s : State) : (storeBody d s).bodyBuf = Memory.ofBytes d := rfl
@[simp] theorem storeBody_tr1Buf (d : Bytes) (s : State) : (storeBody d s).tr1Buf = s.tr1Buf := rfl
@[simp] theorem storeBody_tr2Buf (d : Bytes) (s : State) : (storeBody d s).tr2Buf = s.tr2Buf := rfl
@[simp] theorem storeBody_bodyLen (d : Bytes) (s : State) : (storeBody d s).bodyLen = d.length := rfl
@[simp] theorem storeBody_tr2Len (d : Bytes) (s : State) : (storeBody d s).tr2Len = s.tr2Len := rfl
@[simp] theorem storeBody_rawValid (d : Bytes) (s : State) : (storeBody d s).rawValid = s.rawValid := rfl
@[simp] theorem storeBody_hType (d : Bytes) (s : State) : (storeBody d s).hType = s.hType := rfl
@[simp] theorem storeBody_hToff (d : Bytes) (s : State) : (storeBody d s).hToff = s.hToff := rfl
@[simp] theorem storeBody_hCreator (d : Bytes) (s : State) : (storeBody d s).hCreator = s.hCreator := rfl
@[simp] theorem storeBody_hDest (d : Bytes) (s : State) : (storeBody d s).hDest = s.hDest := rfl
@[simp] theorem storeBody_hSeq (d : Bytes) (s : State) : (storeBody d s).hSeq = s.hSeq := rfl
@[simp] theorem storeBody_hSeries (d : Bytes) (s : State) : (storeBody d s).hSeries = s.hSeries := rfl
@[simp] theorem storeBody_hdrValid (d : Bytes) (s : State) : (storeBody d s).hdrValid = s.hdrValid := rfl
@[simp] theorem storeBody_tKeyid (d : Bytes) (s : State) : (storeBody d s).tKeyid = s.tKeyid := rfl
@[simp] theorem storeBody_tAuthsz (d : Bytes) (s : State) : (storeBody d s).tAuthsz = s.tAuthsz := rfl
@[simp] theorem storeBody_tAuthval (d : Bytes) (s : State) : (storeBody d s).tAuthval = s.tAuthval := rfl
@[simp] theorem storeBody_tCksum (d : Bytes) (s : State) : (storeBody d s).tCksum = s.tCksum := rfl
@[simp] theorem storeBody_v (d : Bytes) (s : State) : (storeBody d s).v = s.v := rfl
@[simp] theorem storeBody_decoded (d : Bytes) (s : State) : (storeBody d s).decoded = s.decoded := rfl
@[simp] theorem storeBody_crcChecked (d : Bytes) (s : State) : (storeBody d s).crcChecked = s.crcChecked := rfl
@[simp] theorem storeBody_crcOk (d : Bytes) (s : State) : (storeBody d s).crcOk = s.crcOk := rfl
@[simp] theorem storeBody_degraded (d : Bytes) (s : State) : (storeBody d s).degraded = s.degraded := rfl
@[simp] theorem storeBody_skipList (d : Bytes) (s : State) : (storeBody d s).skipList = s.skipList := rfl
@[simp] theorem storeBody_cfg (d : Bytes) (s : State) : (storeBody d s).cfg = s.cfg := rfl
@[simp] theorem storeBody_cause (d : Bytes) (s : State) : (storeBody d s).cause = s.cause := rfl
@[simp] theorem storeBody_subcause (d : Bytes) (s : State) : (storeBody d s).subcause = s.subcause := rfl
@[simp] theorem storeBody_epos (d : Bytes) (s : State) : (storeBody d s).epos = s.epos := rfl
@[simp] theorem storeBody_warn (d : Bytes) (s : State) : (storeBody d s).warn = s.warn := rfl
@[simp] theorem storeBody_txBuf (d : Bytes) (s : State) : (storeBody d s).txBuf = s.txBuf := rfl
@[simp] theorem storeBody_txLen (d : Bytes) (s : State) : (storeBody d s).txLen = s.txLen := rfl
@[simp] theorem storeBody_txValid (d : Bytes) (s : State) : (storeBody d s).txValid = s.txValid := rfl
@[simp] theorem storeBody_fifo (d : Bytes) (s : State) : (storeBody d s).fifo = s.fifo := rfl
@[simp] theorem storeBody_stream (d : Bytes) (s : State) : (storeBody d s).stream = s.stream := rfl
@[simp] theorem storeBody_inputs (d : Bytes) (s : State) : (storeBody d s).inputs = s.inputs := rfl
@[simp] theorem storeBody_result (d : Bytes) (s : State) : (storeBody d s).result = s.result := rfl

/-! ## `storeTr2` -/

@[simp] theorem storeTr2_phase (d : Bytes) (s : State) : (storeTr2 d s).phase = Phase.done := rfl
@[simp] theorem storeTr2_spos (d : Bytes) (s : State) : (storeTr2 d s).spos = s.spos := rfl
@[simp] theorem storeTr2_fstart (d : Bytes) (s : State) : (storeTr2 d s).fstart = s.fstart := rfl
@[simp] theorem storeTr2_desync (d : Bytes) (s : State) : (storeTr2 d s).desync = s.desync := rfl
@[simp] theorem storeTr2_hdrBuf (d : Bytes) (s : State) : (storeTr2 d s).hdrBuf = s.hdrBuf := rfl
@[simp] theorem storeTr2_bodyBuf (d : Bytes) (s : State) : (storeTr2 d s).bodyBuf = s.bodyBuf := rfl
@[simp] theorem storeTr2_tr1Buf (d : Bytes) (s : State) : (storeTr2 d s).tr1Buf = s.tr1Buf := rfl
@[simp] theorem storeTr2_tr2Buf (d : Bytes) (s : State) : (storeTr2 d s).tr2Buf = Memory.ofBytes d := rfl
@[simp] theorem storeTr2_bodyLen (d : Bytes) (s : State) : (storeTr2 d s).bodyLen = s.bodyLen := rfl
@[simp] theorem storeTr2_tr2Len (d : Bytes) (s : State) : (storeTr2 d s).tr2Len = d.length := rfl
@[simp] theorem storeTr2_rawValid (d : Bytes) (s : State) : (storeTr2 d s).rawValid = true := rfl
@[simp] theorem storeTr2_hType (d : Bytes) (s : State) : (storeTr2 d s).hType = s.hType := rfl
@[simp] theorem storeTr2_hToff (d : Bytes) (s : State) : (storeTr2 d s).hToff = s.hToff := rfl
@[simp] theorem storeTr2_hCreator (d : Bytes) (s : State) : (storeTr2 d s).hCreator = s.hCreator := rfl
@[simp] theorem storeTr2_hDest (d : Bytes) (s : State) : (storeTr2 d s).hDest = s.hDest := rfl
@[simp] theorem storeTr2_hSeq (d : Bytes) (s : State) : (storeTr2 d s).hSeq = s.hSeq := rfl
@[simp] theorem storeTr2_hSeries (d : Bytes) (s : State) : (storeTr2 d s).hSeries = s.hSeries := rfl
@[simp] theorem storeTr2_hdrValid (d : Bytes) (s : State) : (storeTr2 d s).hdrValid = s.hdrValid := rfl
@[simp] theorem storeTr2_tKeyid (d : Bytes) (s : State) : (storeTr2 d s).tKeyid = s.tKeyid := rfl
@[simp] theorem storeTr2_tAuthsz (d : Bytes) (s : State) : (storeTr2 d s).tAuthsz = s.tAuthsz := rfl
@[simp] theorem storeTr2_tAuthval (d : Bytes) (s : State) : (storeTr2 d s).tAuthval = s.tAuthval := rfl
@[simp] theorem storeTr2_tCksum (d : Bytes) (s : State) : (storeTr2 d s).tCksum = s.tCksum := rfl
@[simp] theorem storeTr2_v (d : Bytes) (s : State) : (storeTr2 d s).v = s.v := rfl
@[simp] theorem storeTr2_decoded (d : Bytes) (s : State) : (storeTr2 d s).decoded = s.decoded := rfl
@[simp] theorem storeTr2_crcChecked (d : Bytes) (s : State) : (storeTr2 d s).crcChecked = s.crcChecked := rfl
@[simp] theorem storeTr2_crcOk (d : Bytes) (s : State) : (storeTr2 d s).crcOk = s.crcOk := rfl
@[simp] theorem storeTr2_degraded (d : Bytes) (s : State) : (storeTr2 d s).degraded = s.degraded := rfl
@[simp] theorem storeTr2_skipList (d : Bytes) (s : State) : (storeTr2 d s).skipList = s.skipList := rfl
@[simp] theorem storeTr2_cfg (d : Bytes) (s : State) : (storeTr2 d s).cfg = s.cfg := rfl
@[simp] theorem storeTr2_cause (d : Bytes) (s : State) : (storeTr2 d s).cause = s.cause := rfl
@[simp] theorem storeTr2_subcause (d : Bytes) (s : State) : (storeTr2 d s).subcause = s.subcause := rfl
@[simp] theorem storeTr2_epos (d : Bytes) (s : State) : (storeTr2 d s).epos = s.epos := rfl
@[simp] theorem storeTr2_warn (d : Bytes) (s : State) : (storeTr2 d s).warn = s.warn := rfl
@[simp] theorem storeTr2_txBuf (d : Bytes) (s : State) : (storeTr2 d s).txBuf = s.txBuf := rfl
@[simp] theorem storeTr2_txLen (d : Bytes) (s : State) : (storeTr2 d s).txLen = s.txLen := rfl
@[simp] theorem storeTr2_txValid (d : Bytes) (s : State) : (storeTr2 d s).txValid = s.txValid := rfl
@[simp] theorem storeTr2_fifo (d : Bytes) (s : State) : (storeTr2 d s).fifo = s.fifo := rfl
@[simp] theorem storeTr2_stream (d : Bytes) (s : State) : (storeTr2 d s).stream = s.stream := rfl
@[simp] theorem storeTr2_inputs (d : Bytes) (s : State) : (storeTr2 d s).inputs = s.inputs := rfl
@[simp] theorem storeTr2_result (d : Bytes) (s : State) : (storeTr2 d s).result = s.result := rfl

/-! ## `beginEncode` -/

@[simp] theorem beginEncode_phase (s : State) : (beginEncode s).phase = s.phase := rfl
@[simp] theorem beginEncode_spos (s : State) : (beginEncode s).spos = s.spos := rfl
@[simp] theorem beginEncode_fstart (s : State) : (beginEncode s).fstart = s.fstart := rfl
@[simp] theorem beginEncode_desync (s : State) : (beginEncode s).desync = s.desync := rfl
@[simp] theorem beginEncode_hdrBuf (s : State) : (beginEncode s).hdrBuf = s.hdrBuf := rfl
@[simp] theorem beginEncode_bodyBuf (s : State) : (beginEncode s).bodyBuf = s.bodyBuf := rfl
@[simp] theorem beginEncode_tr1Buf (s : State) : (beginEncode s).tr1Buf = s.tr1Buf := rfl
@[simp] theorem beginEncode_tr2Buf (s : State) : (beginEncode s).tr2Buf = s.tr2Buf := rfl
@[simp] theorem beginEncode_bodyLen (s : State) : (beginEncode s).bodyLen = s.bodyLen := rfl
@[simp] theorem beginEncode_tr2Len (s : State) : (beginEncode s).tr2Len = s.tr2Len := rfl
@[simp] theorem beginEncode_rawValid (s : State) : (beginEncode s).rawValid = s.rawValid := rfl
@[simp] theorem beginEncode_hType (s : State) : (beginEncode s).hType = s.hType := rfl
@[simp] theorem beginEncode_hToff (s : State) : (beginEncode s).hToff = s.hToff := rfl
@[simp] theorem beginEncode_hCreator (s : State) : (beginEncode s).hCreator = s.hCreator := rfl
@[simp] theorem beginEncode_hDest (s : State) : (beginEncode s).hDest = s.hDest := rfl
@[simp] theorem beginEncode_hSeq (s : State) : (beginEncode s).hSeq = s.hSeq := rfl
@[simp] theorem beginEncode_hSeries (s : State) : (beginEncode s).hSeries = s.hSeries := rfl
@[simp] theorem beginEncode_hdrValid (s : State) : (beginEncode s).hdrValid = s.hdrValid := rfl
@[simp] theorem beginEncode_tKeyid (s : State) : (beginEncode s).tKeyid = s.tKeyid := rfl
@[simp] theorem beginEncode_tAuthsz (s : State) : (beginEncode s).tAuthsz = s.tAuthsz := rfl
@[simp] theorem beginEncode_tAuthval (s : State) : (beginEncode s).tAuthval = s.tAuthval := rfl
@[simp] theorem beginEncode_tCksum (s : State) : (beginEncode s).tCksum = s.tCksum := rfl
@[simp] theorem beginEncode_v (s : State) : (beginEncode s).v = s.v := rfl
@[simp] theorem beginEncode_decoded (s : State) : (beginEncode s).decoded = s.decoded := rfl
@[simp] theorem beginEncode_crcChecked (s : State) : (beginEncode s).crcChecked = false := rfl
@[simp] theorem beginEncode_crcOk (s : State) : (beginEncode s).crcOk = false := rfl
@[simp] theorem beginEncode_degraded (s : State) : (beginEncode s).degraded = s.degraded := rfl
@[simp] theorem beginEncode_skipList (s : State) : (beginEncode s).skipList = s.skipList := rfl
@[simp] theorem beginEncode_cfg (s : State) : (beginEncode s).cfg = s.cfg := rfl
@[simp] theorem beginEncode_cause (s : State) : (beginEncode s).cause = 0 := rfl
@[simp] theorem beginEncode_subcause (s : State) : (beginEncode s).subcause = 0 := rfl
@[simp] theorem beginEncode_epos (s : State) : (beginEncode s).epos = 0 := rfl
@[simp] theorem beginEncode_warn (s : State) : (beginEncode s).warn = s.warn := rfl
@[simp] theorem beginEncode_txBuf (s : State) : (beginEncode s).txBuf = s.txBuf := rfl
@[simp] theorem beginEncode_txLen (s : State) : (beginEncode s).txLen = s.txLen := rfl
@[simp] theorem beginEncode_txValid (s : State) : (beginEncode s).txValid = false := rfl
@[simp] theorem beginEncode_fifo (s : State) : (beginEncode s).fifo = s.fifo := rfl
@[simp] theorem beginEncode_stream (s : State) : (beginEncode s).stream = s.stream := rfl
@[simp] theorem beginEncode_inputs (s : State) : (beginEncode s).inputs = s.inputs := rfl
@[simp] theorem beginEncode_result (s : State) : (beginEncode s).result = s.result := rfl

/-! ## `setTx` -/

@[simp] theorem setTx_phase (o : Bytes) (s : State) : (setTx o s).phase = s.phase := rfl
@[simp] theorem setTx_spos (o : Bytes) (s : State) : (setTx o s).spos = s.spos := rfl
@[simp] theorem setTx_fstart (o : Bytes) (s : State) : (setTx o s).fstart = s.fstart := rfl
@[simp] theorem setTx_desync (o : Bytes) (s : State) : (setTx o s).desync = s.desync := rfl
@[simp] theorem setTx_hdrBuf (o : Bytes) (s : State) : (setTx o s).hdrBuf = s.hdrBuf := rfl
@[simp] theorem setTx_bodyBuf (o : Bytes) (s : State) : (setTx o s).bodyBuf = s.bodyBuf := rfl
@[simp] theorem setTx_tr1Buf (o : Bytes) (s : State) : (setTx o s).tr1Buf = s.tr1Buf := rfl
@[simp] theorem setTx_tr2Buf (o : Bytes) (s : State) : (setTx o s).tr2Buf = s.tr2Buf := rfl
@[simp] theorem setTx_bodyLen (o : Bytes) (s : State) : (setTx o s).bodyLen = s.bodyLen := rfl
@[simp] theorem setTx_tr2Len (o : Bytes) (s : State) : (setTx o s).tr2Len = s.tr2Len := rfl
@[simp] theorem setTx_rawValid (o : Bytes) (s : State) : (setTx o s).rawValid = s.rawValid := rfl
@[simp] theorem setTx_hType (o : Bytes) (s : State) : (setTx o s).hType = s.hType := rfl
@[simp] theorem setTx_hToff (o : Bytes) (s : State) : (setTx o s).hToff = s.hToff := rfl
@[simp] theorem setTx_hCreator (o : Bytes) (s : State) : (setTx o s).hCreator = s.hCreator := rfl
@[simp] theorem setTx_hDest (o : Bytes) (s : State) : (setTx o s).hDest = s.hDest := rfl
@[simp] theorem setTx_hSeq (o : Bytes) (s : State) : (setTx o s).hSeq = s.hSeq := rfl
@[simp] theorem setTx_hSeries (o : Bytes) (s : State) : (setTx o s).hSeries = s.hSeries := rfl
@[simp] theorem setTx_hdrValid (o : Bytes) (s : State) : (setTx o s).hdrValid = s.hdrValid := rfl
@[simp] theorem setTx_tKeyid (o : Bytes) (s : State) : (setTx o s).tKeyid = s.tKeyid := rfl
@[simp] theorem setTx_tAuthsz (o : Bytes) (s : State) : (setTx o s).tAuthsz = s.tAuthsz := rfl
@[simp] theorem setTx_tAuthval (o : Bytes) (s : State) : (setTx o s).tAuthval = s.tAuthval := rfl
@[simp] theorem setTx_tCksum (o : Bytes) (s : State) : (setTx o s).tCksum = s.tCksum := rfl
@[simp] theorem setTx_v (o : Bytes) (s : State) : (setTx o s).v = s.v := rfl
@[simp] theorem setTx_decoded (o : Bytes) (s : State) : (setTx o s).decoded = s.decoded := rfl
@[simp] theorem setTx_crcChecked (o : Bytes) (s : State) : (setTx o s).crcChecked = s.crcChecked := rfl
@[simp] theorem setTx_crcOk (o : Bytes) (s : State) : (setTx o s).crcOk = s.crcOk := rfl
@[simp] theorem setTx_degraded (o : Bytes) (s : State) : (setTx o s).degraded = s.degraded := rfl
@[simp] theorem setTx_skipList (o : Bytes) (s : State) : (setTx o s).skipList = s.skipList := rfl
@[simp] theorem setTx_cfg (o : Bytes) (s : State) : (setTx o s).cfg = s.cfg := rfl
@[simp] theorem setTx_cause (o : Bytes) (s : State) : (setTx o s).cause = s.cause := rfl
@[simp] theorem setTx_subcause (o : Bytes) (s : State) : (setTx o s).subcause = s.subcause := rfl
@[simp] theorem setTx_epos (o : Bytes) (s : State) : (setTx o s).epos = s.epos := rfl
@[simp] theorem setTx_warn (o : Bytes) (s : State) : (setTx o s).warn = s.warn := rfl
@[simp] theorem setTx_txBuf (o : Bytes) (s : State) : (setTx o s).txBuf = Memory.ofBytes o := rfl
@[simp] theorem setTx_txLen (o : Bytes) (s : State) : (setTx o s).txLen = o.length := rfl
@[simp] theorem setTx_txValid (o : Bytes) (s : State) : (setTx o s).txValid = true := rfl
@[simp] theorem setTx_fifo (o : Bytes) (s : State) : (setTx o s).fifo = s.fifo := rfl
@[simp] theorem setTx_stream (o : Bytes) (s : State) : (setTx o s).stream = s.stream := rfl
@[simp] theorem setTx_inputs (o : Bytes) (s : State) : (setTx o s).inputs = s.inputs := rfl
@[simp] theorem setTx_result (o : Bytes) (s : State) : (setTx o s).result = s.result := rfl

/-! ## `csrRead` -/

@[simp] theorem csrRead_phase (c : Cfg) (n : Nat) (s : State) : (csrRead c n s).phase = s.phase := rfl
@[simp] theorem csrRead_spos (c : Cfg) (n : Nat) (s : State) : (csrRead c n s).spos = s.spos := rfl
@[simp] theorem csrRead_fstart (c : Cfg) (n : Nat) (s : State) : (csrRead c n s).fstart = s.fstart := rfl
@[simp] theorem csrRead_desync (c : Cfg) (n : Nat) (s : State) : (csrRead c n s).desync = s.desync := rfl
@[simp] theorem csrRead_hdrBuf (c : Cfg) (n : Nat) (s : State) : (csrRead c n s).hdrBuf = s.hdrBuf := rfl
@[simp] theorem csrRead_bodyBuf (c : Cfg) (n : Nat) (s : State) : (csrRead c n s).bodyBuf = s.bodyBuf := rfl
@[simp] theorem csrRead_tr1Buf (c : Cfg) (n : Nat) (s : State) : (csrRead c n s).tr1Buf = s.tr1Buf := rfl
@[simp] theorem csrRead_tr2Buf (c : Cfg) (n : Nat) (s : State) : (csrRead c n s).tr2Buf = s.tr2Buf := rfl
@[simp] theorem csrRead_bodyLen (c : Cfg) (n : Nat) (s : State) : (csrRead c n s).bodyLen = s.bodyLen := rfl
@[simp] theorem csrRead_tr2Len (c : Cfg) (n : Nat) (s : State) : (csrRead c n s).tr2Len = s.tr2Len := rfl
@[simp] theorem csrRead_rawValid (c : Cfg) (n : Nat) (s : State) : (csrRead c n s).rawValid = s.rawValid := rfl
@[simp] theorem csrRead_hType (c : Cfg) (n : Nat) (s : State) : (csrRead c n s).hType = s.hType := rfl
@[simp] theorem csrRead_hToff (c : Cfg) (n : Nat) (s : State) : (csrRead c n s).hToff = s.hToff := rfl
@[simp] theorem csrRead_hCreator (c : Cfg) (n : Nat) (s : State) : (csrRead c n s).hCreator = s.hCreator := rfl
@[simp] theorem csrRead_hDest (c : Cfg) (n : Nat) (s : State) : (csrRead c n s).hDest = s.hDest := rfl
@[simp] theorem csrRead_hSeq (c : Cfg) (n : Nat) (s : State) : (csrRead c n s).hSeq = s.hSeq := rfl
@[simp] theorem csrRead_hSeries (c : Cfg) (n : Nat) (s : State) : (csrRead c n s).hSeries = s.hSeries := rfl
@[simp] theorem csrRead_hdrValid (c : Cfg) (n : Nat) (s : State) : (csrRead c n s).hdrValid = s.hdrValid := rfl
@[simp] theorem csrRead_tKeyid (c : Cfg) (n : Nat) (s : State) : (csrRead c n s).tKeyid = s.tKeyid := rfl
@[simp] theorem csrRead_tAuthsz (c : Cfg) (n : Nat) (s : State) : (csrRead c n s).tAuthsz = s.tAuthsz := rfl
@[simp] theorem csrRead_tAuthval (c : Cfg) (n : Nat) (s : State) : (csrRead c n s).tAuthval = s.tAuthval := rfl
@[simp] theorem csrRead_tCksum (c : Cfg) (n : Nat) (s : State) : (csrRead c n s).tCksum = s.tCksum := rfl
@[simp] theorem csrRead_v (c : Cfg) (n : Nat) (s : State) : (csrRead c n s).v = s.v := rfl
@[simp] theorem csrRead_decoded (c : Cfg) (n : Nat) (s : State) : (csrRead c n s).decoded = s.decoded := rfl
@[simp] theorem csrRead_crcChecked (c : Cfg) (n : Nat) (s : State) : (csrRead c n s).crcChecked = s.crcChecked := rfl
@[simp] theorem csrRead_crcOk (c : Cfg) (n : Nat) (s : State) : (csrRead c n s).crcOk = s.crcOk := rfl
@[simp] theorem csrRead_degraded (c : Cfg) (n : Nat) (s : State) : (csrRead c n s).degraded = s.degraded := rfl
@[simp] theorem csrRead_skipList (c : Cfg) (n : Nat) (s : State) : (csrRead c n s).skipList = s.skipList := rfl
@[simp] theorem csrRead_cfg (c : Cfg) (n : Nat) (s : State) : (csrRead c n s).cfg = s.cfg := rfl
@[simp] theorem csrRead_cause (c : Cfg) (n : Nat) (s : State) : (csrRead c n s).cause = s.cause := rfl
@[simp] theorem csrRead_subcause (c : Cfg) (n : Nat) (s : State) : (csrRead c n s).subcause = s.subcause := rfl
@[simp] theorem csrRead_epos (c : Cfg) (n : Nat) (s : State) : (csrRead c n s).epos = s.epos := rfl
@[simp] theorem csrRead_warn (c : Cfg) (n : Nat) (s : State) : (csrRead c n s).warn = s.warn := rfl
@[simp] theorem csrRead_txBuf (c : Cfg) (n : Nat) (s : State) : (csrRead c n s).txBuf = s.txBuf := rfl
@[simp] theorem csrRead_txLen (c : Cfg) (n : Nat) (s : State) : (csrRead c n s).txLen = s.txLen := rfl
@[simp] theorem csrRead_txValid (c : Cfg) (n : Nat) (s : State) : (csrRead c n s).txValid = s.txValid := rfl
@[simp] theorem csrRead_fifo (c : Cfg) (n : Nat) (s : State) : (csrRead c n s).fifo = s.fifo := rfl
@[simp] theorem csrRead_stream (c : Cfg) (n : Nat) (s : State) : (csrRead c n s).stream = s.stream := rfl
@[simp] theorem csrRead_inputs (c : Cfg) (n : Nat) (s : State) : (csrRead c n s).inputs = s.inputs := rfl
@[simp] theorem csrRead_result (c : Cfg) (n : Nat) (s : State) : (csrRead c n s).result = HostValue.word (s.csr c n) := rfl

end Sys2Proof.Machine
end

