-- ==== Sys2Proof/Laws/Memory.lean ====
section
/-! SUPPORT. The buffers: a whole-region write gives the canonical form, and a read gives back what the write stored. -/

namespace Sys2Proof.Machine

/-! ## The canonical form -/

theorem Memory.wfFrom_ofBytesFrom (b : Bytes) : ∀ lo a : Nat, lo ≤ a → Memory.wfFrom lo (Memory.ofBytesFrom a b) = true := by
  induction b with
  | nil => intro lo a _; rfl
  | cons x b ih => intro lo a h; simp [Memory.ofBytesFrom, Memory.wfFrom, h, ih (a + 1) (a + 1) (Nat.le_refl _)]

/-- The only operation that writes a buffer gives the canonical form. -/
theorem Memory.wf_ofBytes (b : Bytes) : Memory.wf (Memory.ofBytes b) = true :=
  Memory.wfFrom_ofBytesFrom b 0 0 (Nat.le_refl 0)

theorem Memory.wf_reset : Memory.wf State.reset.hdrBuf = true ∧ Memory.wf State.reset.bodyBuf = true
    ∧ Memory.wf State.reset.tr1Buf = true ∧ Memory.wf State.reset.tr2Buf = true ∧ Memory.wf State.reset.txBuf = true :=
  ⟨rfl, rfl, rfl, rfl, rfl⟩

/-! ## Reading -/

theorem Memory.read_ofBytesFrom_below (b : Bytes) : ∀ a k : Nat, k < a → Memory.read (Memory.ofBytesFrom a b) k = none := by
  induction b with
  | nil => intro a k _; rfl
  | cons x b ih =>
    intro a k h
    have hne : a ≠ k := by omega
    simp [Memory.ofBytesFrom, Memory.read, hne, ih (a + 1) k (by omega)]

theorem Memory.read_ofBytesFrom (b : Bytes) : ∀ a i : Nat, Memory.read (Memory.ofBytesFrom a b) (a + i) = b[i]? := by
  induction b with
  | nil => intro a i; rfl
  | cons x b ih =>
    intro a i
    cases i with
    | zero => simp [Memory.ofBytesFrom, Memory.read]
    | succ i =>
      have hne : ¬ a = a + (i + 1) := by omega
      have : a + (i + 1) = a + 1 + i := by omega
      simp only [Memory.ofBytesFrom, Memory.read, hne, if_false, List.getElem?_cons_succ]
      rw [this, ih]

/-- Reading one byte of a buffer just written: the byte of the string, no value beyond its end. -/
theorem Memory.read_ofBytes (b : Bytes) (i : Nat) : Memory.read (Memory.ofBytes b) i = b[i]? := by
  have h := Memory.read_ofBytesFrom b 0 i
  rwa [Nat.zero_add] at h

/-! ## `MemRead` -/

/-- What `MemRead` gives has the length asked for. -/
theorem Memory.load_length (m : Memory) : ∀ (n a : Nat) (b : Bytes), Memory.load m a n = some b → b.length = n := by
  intro n
  induction n with
  | zero => intro a b h; simp [Memory.load] at h; simp [← h]
  | succ n ih =>
    intro a b h
    simp only [Memory.load] at h
    split at h
    · cases h
    · split at h
      · cases h
      · rename_i y hy
        cases h
        simp [ih _ _ hy]

/-- `MemRead` succeeds exactly when every byte has a value, and gives those values. -/
theorem Memory.load_eq_some_iff (m : Memory) : ∀ (n a : Nat) (b : Bytes),
    Memory.load m a n = some b ↔ b.length = n ∧ ∀ i, i < n → Memory.read m (a + i) = b[i]? := by
  intro n
  induction n with
  | zero => intro a b; simp [Memory.load, eq_comm (a := []), List.length_eq_zero_iff]
  | succ n ih =>
    intro a b
    constructor
    · intro h
      simp only [Memory.load] at h
      split at h
      · cases h
      · rename_i x hx
        split at h
        · cases h
        · rename_i y hy
          cases h
          obtain ⟨hl, hr⟩ := (ih (a + 1) y).mp hy
          refine ⟨by simp [hl], fun i hi => ?_⟩
          cases i with
          | zero => simpa using hx
          | succ i =>
            have := hr i (by omega)
            rw [show a + (i + 1) = a + 1 + i by omega, this]; rfl
    · rintro ⟨hl, hr⟩
      cases b with
      | nil => simp at hl
      | cons x y =>
        have h0 : Memory.read m a = some x := by simpa using hr 0 (by omega)
        have hy : Memory.load m (a + 1) n = some y := by
          refine (ih (a + 1) y).mpr ⟨by simpa using hl, fun i hi => ?_⟩
          have := hr (i + 1) (by omega)
          rw [show a + (i + 1) = a + 1 + i by omega] at this
          simpa using this
        simp only [Memory.load, h0, hy]

/-- A read after a whole-region write, inside the region. -/
theorem Memory.load_ofBytes_slice (b : Bytes) (o n : Nat) (h : o + n ≤ b.length) :
    Memory.load (Memory.ofBytes b) o n = some (slice b o n) := by
  refine (Memory.load_eq_some_iff _ n o _).mpr ⟨by simp [slice]; omega, fun i hi => ?_⟩
  rw [Memory.read_ofBytes]
  simp [slice, hi]

/-- A read of the whole region just written. -/
theorem Memory.load_ofBytes (b : Bytes) : Memory.load (Memory.ofBytes b) 0 b.length = some b := by
  simpa [slice] using Memory.load_ofBytes_slice b 0 b.length (by omega)

/-- A read inside what a longer read gave. -/
theorem Memory.load_slice (m : Memory) (a n : Nat) (b : Bytes) (h : Memory.load m a n = some b) (k j : Nat) (hk : k + j ≤ n) :
    Memory.load m (a + k) j = some (slice b k j) := by
  obtain ⟨hl, hr⟩ := (Memory.load_eq_some_iff m n a b).mp h
  refine (Memory.load_eq_some_iff m j (a + k) _).mpr ⟨by simp [slice]; omega, fun i hi => ?_⟩
  rw [show a + k + i = a + (k + i) by omega, hr (k + i) (by omega)]
  simp [slice, hi]

/-! ## The canonical form under every operation that writes a buffer -/

theorem setRegions_wf (r : Regions) (s : State) : Memory.wf (setRegions r s).hdrBuf = true ∧ Memory.wf (setRegions r s).bodyBuf = true
    ∧ Memory.wf (setRegions r s).tr1Buf = true ∧ Memory.wf (setRegions r s).tr2Buf = true :=
  ⟨Memory.wf_ofBytes _, Memory.wf_ofBytes _, Memory.wf_ofBytes _, Memory.wf_ofBytes _⟩

theorem setTx_wf (out : Bytes) (s : State) : Memory.wf (setTx out s).txBuf = true := Memory.wf_ofBytes out

theorem storeBody_wf (d : Bytes) (s : State) : Memory.wf (storeBody d s).bodyBuf = true := Memory.wf_ofBytes d

theorem storeTr2_wf (d : Bytes) (s : State) : Memory.wf (storeTr2 d s).tr2Buf = true := Memory.wf_ofBytes d

/-! ## The regions -/

/-- What `heldRegions` gives, region by region. -/
theorem heldRegions_eq_some_iff (s : State) (r : Regions) : heldRegions s = some r ↔
    Memory.load s.hdrBuf 0 hlen = some r.hdr ∧ Memory.load s.bodyBuf 0 s.bodyLen = some r.body
      ∧ Memory.load s.tr1Buf 0 tr1Len = some r.tr1 ∧ Memory.load s.tr2Buf 0 s.tr2Len = some r.tr2 := by
  unfold heldRegions
  constructor
  · intro h
    split at h
    · rename_i h1 h2 h3 h4; cases h; exact ⟨h1, h2, h3, h4⟩
    · cases h
  · rintro ⟨h1, h2, h3, h4⟩
    simp only [h1, h2, h3, h4]

/-- Regions just stored are the regions held. -/
theorem heldRegions_setRegions (r : Regions) (s : State) (h : r.hdr.length = hlen) (h1 : r.tr1.length = tr1Len) :
    heldRegions (setRegions r s) = some r := by
  rw [heldRegions_eq_some_iff]
  refine ⟨?_, Memory.load_ofBytes _, ?_, Memory.load_ofBytes _⟩
  · rw [← h]; exact Memory.load_ofBytes _
  · rw [← h1]; exact Memory.load_ofBytes _

/-- The held regions depend on the buffers and their lengths alone. -/
theorem heldRegions_congr (s t : State) (h : s.hdrBuf = t.hdrBuf) (hb : s.bodyBuf = t.bodyBuf) (hl : s.bodyLen = t.bodyLen)
    (h1 : s.tr1Buf = t.tr1Buf) (h2 : s.tr2Buf = t.tr2Buf) (hl2 : s.tr2Len = t.tr2Len) : heldRegions s = heldRegions t := by
  simp only [heldRegions, h, hb, hl, h1, h2, hl2]

end Sys2Proof.Machine
end

