-- ==== Sys2Proof/Laws/Operands.lean ====
section
/-! SUPPORT. The aligner: what each primitive can answer, and the lengths of what the encoder writes. -/

namespace Sys2Proof

/-! ## Lengths, slices, integers -/

@[simp] theorem zeros_length (n : Nat) : (zeros n).length = n := List.length_replicate

@[simp] theorem toBe_length (n v : Nat) : (toBe n v).length = n := by
  induction n generalizing v with
  | zero => rfl
  | succ n ih => simp [toBe, ih]

theorem slice_length (b : Bytes) (o n : Nat) (h : o + n ≤ b.length) : (slice b o n).length = n := by
  simp [slice]; omega

theorem padTo_length (w : Nat) (s : Bytes) (h : s.length ≤ w) : (padTo w s).length = w := by
  simp [padTo]; omega

theorem beNat_foldl (b : Bytes) : ∀ a : Nat, b.foldl (fun a x => 256 * a + x.toNat) a = a * 256 ^ b.length + beNat b := by
  induction b with
  | nil => intro a; simp [beNat]
  | cons x b ih =>
    intro a
    simp only [List.foldl_cons, List.length_cons, beNat]
    rw [ih, ih (256 * 0 + x.toNat)]
    ring

/-- The first byte is the most significant one (R12, R54). -/
theorem beNat_cons (x : Byte) (b : Bytes) : beNat (x :: b) = x.toNat * 256 ^ b.length + beNat b := by
  show List.foldl _ _ b = _
  rw [beNat_foldl]; simp

theorem beNat_lt (b : Bytes) : beNat b < 256 ^ b.length := by
  induction b with
  | nil => simp [beNat]
  | cons x b ih =>
    rw [beNat_cons, List.length_cons, pow_succ]
    have := x.isLt
    nlinarith

/-- The integer view of a big-endian string is the value modulo its width (R12). -/
theorem beNat_toBe (n v : Nat) : beNat (toBe n v) = v % 256 ^ n := by
  induction n generalizing v with
  | zero => simp [toBe, beNat, Nat.mod_one]
  | succ n ih =>
    rw [toBe, beNat_cons, ih, toBe_length, BitVec.toNat_ofNat]
    have h : v % 256 ^ (n + 1) = 256 ^ n * (v / 256 ^ n % 256) + v % 256 ^ n := by
      rw [pow_succ, Nat.mod_mul]; ring
    rw [h]; ring

/-! ## Composition -/

theorem Res.andThen_ok_iff {α β : Type} (r : Res α) (k : α → Nat → Res β) (v : β) (o : Nat) :
    r.andThen k = .ok v o ↔ ∃ x o1, r = .ok x o1 ∧ k x o1 = .ok v o := by
  cases r with
  | ok x o1 => simp [Res.andThen]
  | fail sub pos => simp [Res.andThen]

theorem Res.andThen_fail_iff {α β : Type} (r : Res α) (k : α → Nat → Res β) (sub : MalformedSub) (p : Nat) :
    r.andThen k = .fail sub p ↔ r = .fail sub p ∨ ∃ x o1, r = .ok x o1 ∧ k x o1 = .fail sub p := by
  cases r with
  | ok x o1 => simp [Res.andThen]
  | fail sub pos => simp [Res.andThen]

theorem need_ok_iff {α : Type} (b : Bytes) (o n : Nat) (r : Res α) (v : α) (o' : Nat) :
    need b o n r = .ok v o' ↔ o + n ≤ b.length ∧ r = .ok v o' := by
  unfold need
  split <;> simp_all

/-- Enough bytes: `need` passes (R111). -/
theorem need_of_le {α : Type} (b : Bytes) (o n : Nat) (r : Res α) (h : o + n ≤ b.length) : need b o n r = r := if_pos h

/-! ## What each `GET` answers when it succeeds -/

theorem getUInt_ok_iff (n : Nat) (b : Bytes) (o v o' : Nat) :
    getUInt n b o = .ok v o' ↔ o + n ≤ b.length ∧ v = beNat (slice b o n) ∧ o' = o + n := by
  simp only [getUInt, need_ok_iff, Res.ok.injEq]
  exact ⟨fun h => ⟨h.1, h.2.1.symm, h.2.2.symm⟩, fun h => ⟨h.1, h.2.1.symm, h.2.2.symm⟩⟩

theorem getBytes_ok_iff (b : Bytes) (o n : Nat) (v : Bytes) (o' : Nat) :
    getBytes b o n = .ok v o' ↔ o + n ≤ b.length ∧ v = slice b o n ∧ o' = o + n := by
  simp only [getBytes, need_ok_iff, Res.ok.injEq]
  exact ⟨fun h => ⟨h.1, h.2.1.symm, h.2.2.symm⟩, fun h => ⟨h.1, h.2.1.symm, h.2.2.symm⟩⟩

theorem getStr_ok_iff (w : Nat) (b : Bytes) (o : Nat) (v : Bytes) (o' : Nat) :
    getStr w b o = .ok v o' ↔ o + w ≤ b.length ∧ v = rstrip (slice b o w) ∧ o' = o + w := by
  simp only [getStr, need_ok_iff, Res.ok.injEq]
  exact ⟨fun h => ⟨h.1, h.2.1.symm, h.2.2.symm⟩, fun h => ⟨h.1, h.2.1.symm, h.2.2.symm⟩⟩

theorem getVar_ok_iff (b : Bytes) (o : Nat) (v : Bytes) (o' : Nat) :
    getVar b o = .ok v o' ↔ o + 4 ≤ b.length ∧ o + 4 + pad4 (be32 b o) ≤ b.length
      ∧ v = slice b (o + 4) (be32 b o) ∧ o' = o + 4 + pad4 (be32 b o) := by
  simp only [getVar, getU32, Res.andThen_ok_iff, getUInt_ok_iff, need_ok_iff, be32]
  constructor
  · rintro ⟨x, o1, ⟨h1, rfl, rfl⟩, h2, h3⟩
    cases h3
    exact ⟨h1, h2, rfl, rfl⟩
  · rintro ⟨h1, h2, rfl, rfl⟩
    exact ⟨_, _, ⟨h1, rfl, rfl⟩, h2, rfl⟩

/-! ## What each `PUT` answers when it succeeds -/

@[simp] theorem putAll_nil : putAll [] = .ok [] := rfl

theorem putAll_cons_ok_iff (p : Put) (ps : List Put) (out : Bytes) :
    putAll (p :: ps) = .ok out ↔ ∃ a rest, p = .ok a ∧ putAll ps = .ok rest ∧ out = a ++ rest := by
  cases p with
  | error e => simp [putAll]
  | ok a =>
    cases h : putAll ps with
    | error e => simp [putAll, h]
    | ok rest => simp [putAll, h, eq_comm]

theorem putUInt_ok_iff (n v : Nat) (out : Bytes) : putUInt n v = .ok out ↔ v < 256 ^ n ∧ out = toBe n v := by
  unfold putUInt
  split <;> simp_all [eq_comm]

theorem putTs_ok_iff (t out : Bytes) : putTs t = .ok out ↔ t.length = tsLen ∧ out = t := by
  unfold putTs
  split <;> simp_all [eq_comm]

theorem putVar_ok_iff (v out : Bytes) :
    putVar v = .ok out ↔ v.length < 2 ^ 32 ∧ out = toBe 4 v.length ++ v ++ zeros (padlen v.length) := by
  unfold putVar
  split <;> simp_all [eq_comm]

theorem putStr_ok_iff (w : Nat) (s out : Bytes) : putStr w s = .ok out ↔
    s.length ≤ w ∧ (∀ x ∈ s, 0x01 ≤ x.toNat ∧ x.toNat ≤ 0x7F) ∧ out = padTo w s := by
  unfold putStr
  split
  · simp; omega
  · split
    · rename_i h1 h2
      simp only [List.all_eq_true, decide_eq_true_eq] at h2
      simp only [Except.ok.injEq, eq_comm (a := out)]
      exact ⟨fun h => ⟨by omega, h2, h⟩, fun h => h.2.2⟩
    · rename_i h1 h2
      simp only [List.all_eq_true, decide_eq_true_eq] at h2
      simp only [reduceCtorEq, false_iff]
      rintro ⟨_, h, _⟩
      exact h2 h

theorem check_ok_iff (c : Bool) (e : RejectSub) (out : Bytes) : check c e = .ok out ↔ c = true ∧ out = [] := by
  unfold check
  split <;> simp_all [eq_comm]

end Sys2Proof
end

