-- ==== Sys2Proof/Laws/Ops.lean ====
section
/-! SUPPORT. For each shared operation one lemma that says everything it can answer; later proofs cite these and unfold
no operation. -/

namespace Sys2Proof.Machine

/-! ## Header and trailer -/

/-- The tests of `HDRDEC` pass exactly on a known type and an offset beyond the header. -/
theorem headerChecks_ok_iff (ty tof : Nat) (cr de : Bytes) (sq se : Nat) (h : Header) :
    headerChecks ty tof cr de sq se = .ok h ↔ ∃ t, FrameType.ofCode ty = some t ∧ hlen < tof
      ∧ h = { ty := t, toff := BitVec.ofNat 32 tof, creator := cr, dest := de
              seq := BitVec.ofNat 64 sq, series := BitVec.ofNat 32 se } := by
  unfold headerChecks
  cases FrameType.ofCode ty with
  | none => simp
  | some t =>
    by_cases hto : tof ≤ hlen
    · simp [hto]
    · simp only [hto, if_false, Except.ok.injEq, Option.some.injEq]
      constructor
      · intro h; exact ⟨t, rfl, by omega, h.symm⟩
      · rintro ⟨t', rfl, _, h⟩; exact h.symm

theorem stage_ok_iff {α β : Type} (r : Res α) (k : α → Except Failure β) (x : β) :
    stage r k = .ok x ↔ ∃ v o, r = .ok v o ∧ k v = .ok x := by
  cases r <;> simp [stage]

/-- `HDRDEC` on a header of `HLEN` bytes: the six fields at their places, through the two tests (R161). -/
theorem hdrDec_eq (h : Bytes) (hl : h.length = hlen) : hdrDec h =
    headerChecks (be32 h 0) (be32 h 4) (rstrip (slice h 8 8)) (rstrip (slice h 16 8)) (be64 h 24) (be32 h 32) := by
  simp [hdrDec, stage, getU32, getU64, getUInt, getStr, need, be32, be64, hl, hlen]

/-- `TRLDEC` on a segment 1 of 8 bytes and a segment 2 that is long enough (R166). -/
theorem trlDec_eq (toff : BitVec 32) (t1 t2 : Bytes) (h1 : t1.length = tr1Len) (h2 : pad4 (be32 t1 4) + ckLen ≤ t2.length) :
    trlDec toff t1 t2 = .ok
      { keyid := BitVec.ofNat 32 (be32 t1 0), authsz := BitVec.ofNat 32 (be32 t1 4)
        authval := slice t2 0 (pad4 (be32 t1 4)), cksum := BitVec.ofNat 64 (be64 t2 (pad4 (be32 t1 4))) } := by
  have h2' : ¬ t2.length < pad4 (beNat (slice t1 4 4)) + ckLen := by simp only [be32] at h2; omega
  have h3 : 0 + pad4 (beNat (slice t1 4 4)) ≤ t2.length := by simp only [be32] at h2; omega
  have h4 : pad4 (beNat (slice t1 4 4)) + 8 ≤ t2.length := h2
  simp [trlDec, stage, getU32, getU64, getUInt, getBytes, need, be32, be64, h1, h2', h4, tr1Len,
    show pad4 (beNat (slice t1 4 4)) ≤ t2.length by omega]

/-! ## The decode of one frame -/

/-- Everything `runDecode` can do: stop at the header, at the body, at the trailer, or complete (R178). -/
theorem runDecode_cases (c : Cfg) (header : Except Failure Header) (body : FrameType → Res Body) (len : Nat)
    (trailer : BitVec 32 → Except Failure Trailer) (s : State) :
    (∃ sub pos, header = .error (sub, pos)
        ∧ runDecode c header body len trailer s = raise c .command (.malformed sub) pos s)
    ∨ (∃ h sub pos, header = .ok h ∧ body h.ty = .fail sub pos
        ∧ runDecode c header body len trailer s = raise c .command (.malformed sub) (hlen + pos) (setHeader h s))
    ∨ (∃ h b k sub pos, header = .ok h ∧ body h.ty = .ok b k ∧ trailer h.toff = .error (sub, pos)
        ∧ runDecode c header body len trailer s = raise c .command (.malformed sub) pos (setBody b k len (setHeader h s)))
    ∨ (∃ h b k t, header = .ok h ∧ body h.ty = .ok b k ∧ trailer h.toff = .ok t
        ∧ runDecode c header body len trailer s = setTrailer t (setBody b k len (setHeader h s))) := by
  unfold runDecode
  match header with
  | .error (sub, pos) => exact .inl ⟨sub, pos, rfl, rfl⟩
  | .ok h =>
    match hb : body h.ty with
    | .fail sub pos => exact .inr (.inl ⟨h, sub, pos, rfl, hb, by simp [hb]⟩)
    | .ok b k =>
      match ht : trailer h.toff with
      | .error (sub, pos) => exact .inr (.inr (.inl ⟨h, b, k, sub, pos, rfl, hb, ht, by simp [hb, ht]⟩))
      | .ok t => exact .inr (.inr (.inr ⟨h, b, k, t, rfl, hb, ht, by simp [hb, ht]⟩))

/-! ## The streamer -/

/-- Everything a poll step can do on the way to a next state (R143). -/
theorem pollStep_next (c : Cfg) (halt intr : Bool) (short : Option Nat) (s t : State) (h : pollStep c halt intr short s = .next t) :
    (s.phase.waiting = false ∧ t = s)
    ∨ ∃ n, s.phase.waiting = true ∧ needLen s = some n
      ∧ ((streamAvail s < n ∧ t = pollUnavailable c halt intr s)
        ∨ (n ≤ streamAvail s ∧ (streamRead n short s).length < n
            ∧ t = fatalDesync c .shortRead (consume (streamRead n short s) s))
        ∨ (n ≤ streamAvail s ∧ n ≤ (streamRead n short s).length
            ∧ storeRegion c (streamRead n short s) (consume (streamRead n short s) s) = .next t)) := by
  unfold pollStep at h
  split at h
  · rename_i hw
    split at h
    · cases h
    · rename_i n hn
      refine .inr ⟨n, hw, hn, ?_⟩
      split at h
      · rename_i ha
        simp only [pollRead] at h
        split at h
        · rename_i hs
          cases h
          exact .inr (.inl ⟨ha, hs, rfl⟩)
        · exact .inr (.inr ⟨ha, by omega, h⟩)
      · cases h
        exact .inl ⟨by omega, rfl⟩
  · rename_i hw
    cases h
    exact .inl ⟨by simpa using hw, rfl⟩

/-- What the unavailable branch of a poll step does (R146, R147, R152). -/
theorem pollUnavailable_cases (c : Cfg) (halt intr : Bool) (s : State) :
    (halt = false ∧ intr = false ∧ pollUnavailable c halt intr s = s)
    ∨ ((halt || intr) = true ∧ s.phase = .wHdr ∧ pollUnavailable c halt intr s = cancel c halt s)
    ∨ ((halt || intr) = true ∧ s.phase ≠ .wHdr
        ∧ pollUnavailable c halt intr s = fatalDesync c (if halt then .haltMidframe else .intrMidframe) s) := by
  unfold pollUnavailable
  cases halt <;> cases intr <;> by_cases hp : s.phase = .wHdr <;> simp [hp]

/-- Storing the header region (R145, R149, R150). -/
theorem storeHeader_cases (c : Cfg) (d : Bytes) (s : State) :
    (be32 d 4 ≤ hlen ∧ storeHeader c d s = fatalMalformed c .badToff 4 { s with hdrBuf := Memory.ofBytes d })
    ∨ (hlen < be32 d 4 ∧ c.bodyMax < be32 d 4 - hlen
        ∧ storeHeader c d s = fatalMalformed c .tooLarge 4 { s with hdrBuf := Memory.ofBytes d })
    ∨ (hlen < be32 d 4 ∧ be32 d 4 - hlen ≤ c.bodyMax
        ∧ storeHeader c d s = { s with hdrBuf := Memory.ofBytes d, phase := .wBody }) := by
  unfold storeHeader
  by_cases h1 : be32 d 4 ≤ hlen
  · exact .inl ⟨h1, by simp [h1]⟩
  · by_cases h2 : c.bodyMax < be32 d 4 - hlen
    · exact .inr (.inl ⟨by omega, h2, by simp [h1, h2]⟩)
    · exact .inr (.inr ⟨by omega, by omega, by simp [h1, h2]⟩)

/-- Storing trailer segment 1 (R145, R150). -/
theorem storeTr1_cases (c : Cfg) (toff : Nat) (d : Bytes) (s : State) :
    (c.authMax < pad4 (be32 d 4)
        ∧ storeTr1 c toff d s = fatalMalformed c .tooLarge (toff + 4) { s with tr1Buf := Memory.ofBytes d })
    ∨ (pad4 (be32 d 4) ≤ c.authMax ∧ storeTr1 c toff d s = { s with tr1Buf := Memory.ofBytes d, phase := .wTr2 }) := by
  unfold storeTr1
  by_cases h1 : c.authMax < pad4 (be32 d 4)
  · exact .inl ⟨h1, by simp [h1]⟩
  · exact .inr ⟨by omega, by simp [h1]⟩

/-- Everything `store_region` can do on the way to a next state (R145). -/
theorem storeRegion_next (c : Cfg) (d : Bytes) (s t : State) (h : storeRegion c d s = .next t) :
    (s.phase = .wHdr ∧ t = storeHeader c d s)
    ∨ (s.phase = .wBody ∧ t = storeBody d s)
    ∨ (s.phase = .wTr1 ∧ ∃ toff, storedToff s = some toff ∧ t = storeTr1 c toff d s)
    ∨ (s.phase = .wTr2 ∧ t = storeTr2 d s)
    ∨ (s.phase.waiting = false ∧ t = s) := by
  unfold storeRegion at h
  split at h <;> rename_i hp
  · cases h; exact .inl ⟨hp, rfl⟩
  · cases h; exact .inr (.inl ⟨hp, rfl⟩)
  · split at h
    · cases h
    · rename_i toff ht
      cases h; exact .inr (.inr (.inl ⟨hp, toff, ht, rfl⟩))
  · cases h; exact .inr (.inr (.inr (.inl ⟨hp, rfl⟩)))
  · cases h; exact .inr (.inr (.inr (.inr ⟨by simp [hp, Phase.waiting], rfl⟩)))
  · cases h; exact .inr (.inr (.inr (.inr ⟨by simp [hp, Phase.waiting], rfl⟩)))

/-! ## The commands over a frame -/

/-- `DECODE` on the way to a next state (R40, R178). -/
theorem execDecode_next (s t : State) (h : execDecode s = .next t) :
    (s.rawValid = false ∧ t = refuse Config.cfg .noFrame s)
    ∨ ∃ r, s.rawValid = true ∧ heldRegions s = some r ∧ t = decodeRegionsHeld Config.cfg r (beginDecode s) := by
  unfold execDecode at h
  split at h
  · rename_i hr
    split at h
    · cases h
    · rename_i r hh
      cases h; exact .inr ⟨r, hr, hh, rfl⟩
  · rename_i hr
    cases h; exact .inl ⟨by simpa using hr, rfl⟩

/-- `VERIFY` on the way to a next state (R40, R172). -/
theorem execVerify_next (s t : State) (h : execVerify s = .next t) :
    ((s.rawValid && s.decoded) = false ∧ t = refuse Config.cfg .noFrame s)
    ∨ ∃ r, s.rawValid = true ∧ s.decoded = true ∧ heldRegions s = some r
        ∧ t = checkCrc Config.cfg r.bytes (clearError s) := by
  unfold execVerify at h
  split at h
  · rename_i hr
    simp only [Bool.and_eq_true] at hr
    split at h
    · cases h
    · rename_i r hh
      cases h; exact .inr ⟨r, hr.1, hr.2, hh, rfl⟩
  · rename_i hr
    cases h; exact .inl ⟨by simpa using hr, rfl⟩

/-- The split of `DECODEBUF` succeeds exactly on a buffer that starts with a whole frame that fits (R179). -/
theorem splitBuf_ok_iff (c : Cfg) (buf : Bytes) (r : Regions) : splitBuf c buf = .ok r ↔
    hlen ≤ buf.length ∧ hlen < be32 buf 4 ∧ be32 buf 4 - hlen ≤ c.bodyMax ∧ be32 buf 4 + 8 ≤ buf.length
      ∧ pad4 (be32 buf (be32 buf 4 + 4)) ≤ c.authMax
      ∧ be32 buf 4 + 16 + pad4 (be32 buf (be32 buf 4 + 4)) ≤ buf.length
      ∧ r = regionsAt buf (be32 buf 4) (pad4 (be32 buf (be32 buf 4 + 4))) := by
  unfold splitBuf
  by_cases h1 : buf.length < hlen
  · simp only [h1, if_true, reduceCtorEq, false_iff]; omega
  by_cases h2 : be32 buf 4 ≤ hlen
  · simp only [h1, h2, if_true, if_false, reduceCtorEq, false_iff]; omega
  by_cases h3 : c.bodyMax < be32 buf 4 - hlen
  · simp only [h1, h2, h3, if_true, if_false, reduceCtorEq, false_iff]; omega
  by_cases h4 : buf.length < be32 buf 4 + 8
  · simp only [h1, h2, h3, h4, if_true, if_false, reduceCtorEq, false_iff]; omega
  by_cases h5 : c.authMax < pad4 (be32 buf (be32 buf 4 + 4))
  · simp only [h1, h2, h3, h4, h5, if_true, if_false, reduceCtorEq, false_iff]; omega
  by_cases h6 : buf.length < be32 buf 4 + 16 + pad4 (be32 buf (be32 buf 4 + 4))
  · simp only [h1, h2, h3, h4, h5, h6, if_true, if_false, reduceCtorEq, false_iff]; omega
  simp only [h1, h2, h3, h4, h5, h6, if_false, Except.ok.injEq]
  constructor
  · intro h; exact ⟨by omega, by omega, by omega, by omega, by omega, by omega, h.symm⟩
  · rintro ⟨_, _, _, _, _, _, h⟩; exact h.symm

/-- What `DECODEBUF` does (R179). -/
theorem decodeBuf_cases (c : Cfg) (buf : Bytes) (s : State) :
    (∃ sub pos, splitBuf c buf = .error (sub, pos) ∧ decodeBuf c buf s = failSplit c sub pos (beginDecodebuf s))
    ∨ ∃ r, splitBuf c buf = .ok r
        ∧ decodeBuf c buf s = verifyDecoded c r (decodeRegionsHeld c r (setRegions r (beginDecodebuf s))) := by
  unfold decodeBuf
  match splitBuf c buf with
  | .error (sub, pos) => exact .inl ⟨sub, pos, rfl, rfl⟩
  | .ok r => exact .inr ⟨r, rfl, rfl⟩

/-- The verify stage runs or leaves the state alone. -/
theorem verifyDecoded_cases (c : Cfg) (r : Regions) (s : State) :
    (s.decoded = true ∧ verifyDecoded c r s = checkCrc c r.bytes (clearError s))
    ∨ (s.decoded = false ∧ verifyDecoded c r s = s) := by
  unfold verifyDecoded
  cases h : s.decoded <;> simp

/-- What `ENCODE` does (R180). -/
theorem encodeReq_cases (c : Cfg) (req : EncReq) (s : State) :
    (∃ e, encodeFrame c req = .error e ∧ encodeReq c req s = raise c .command (.rejected e) 0 (beginEncode s))
    ∨ ∃ out, encodeFrame c req = .ok out ∧ encodeReq c req s = setTx out (beginEncode s) := by
  unfold encodeReq
  cases h : encodeFrame c req with
  | error e => exact .inl ⟨e, rfl, rfl⟩
  | ok out => exact .inr ⟨out, rfl, rfl⟩

/-- Converting the instants of a request changes no tag (R131). -/
@[simp] theorem stampVariant_frameType (c : Cfg) (times : List (Option Instant)) (v : Variant) :
    Variant.frameType (stampVariant c times v) = Variant.frameType v := by
  cases v <;> rfl

/-- The record that a request resolves to has the request's tag, so the type can be tested first (R268). -/
theorem resolveVariant_frameType (c : Cfg) (req : EncReq) (v : Variant) (h : resolveVariant c req = .ok v) :
    requestTag req.variant = Variant.frameType v := by
  unfold resolveVariant at h
  split at h
  · rename_i w hw; cases h; simp [requestTag, hw]
  · rename_i hw
    split at h
    · cases h
    · cases h; simp [requestTag, hw, Variant.frameType]

/-- What a successful `ENCODE` has computed on the way (R180). -/
theorem encodeFrame_ok_iff (c : Cfg) (req : EncReq) (out : Bytes) : encodeFrame c req = .ok out ↔
    ∃ v body hdr trl, resolveVariant c req = .ok v ∧ req.frameType = (Variant.frameType v).code ∧ bodyEnc c v = .ok body
      ∧ body.length ≠ 0 ∧ hlen + body.length < 2 ^ 32
      ∧ hdrEnc req.frameType (hlen + body.length) req.frameCreator req.frameDestination req.sequenceNumber req.series = .ok hdr
      ∧ trlBody req.authKeyId req.authValue = .ok trl
      ∧ out = hdr ++ body ++ trl ++ toBe 8 (crcGen c hdr body trl).toNat ∧ out.length ≤ c.txMax := by
  unfold encodeFrame
  constructor
  · intro h
    split at h; · cases h
    rename_i ht
    split at h; · cases h
    rename_i v hv
    split at h; · cases h
    rename_i body hb
    split at h; · cases h
    rename_i hl
    split at h; · cases h
    rename_i hdr hh
    split at h; · cases h
    rename_i trl htr
    dsimp only at h
    split at h; · cases h
    rename_i hx
    cases h
    rw [resolveVariant_frameType c req v hv] at ht
    exact ⟨v, body, hdr, trl, hv, not_not.mp ht, hb, by omega, by omega, hh, htr, rfl, by omega⟩
  · rintro ⟨v, body, hdr, trl, hv, ht, hb, h1, h2, hh, htr, rfl, hle⟩
    have hl : ¬(body.length = 0 ∨ 2 ^ 32 ≤ hlen + body.length) := by omega
    rw [resolveVariant_frameType c req v hv]
    simp only [hv, hb, htr, ne_eq, ht, not_true_eq_false, if_false, hl]
    rw [← ht, hh]
    exact if_neg (by omega)

/-- A type other than the request's tag is reported before all else (R268). -/
theorem encodeFrame_typeMismatch (c : Cfg) (req : EncReq) (h : req.frameType ≠ (requestTag req.variant).code) :
    encodeFrame c req = .error .typeMismatch := if_pos h

/-! ## Host operations and the step -/

/-- What a write of a control register does (R30, R41). -/
theorem csrWrite_cases (n : Nat) (v : BitVec 32) (s : State) :
    (n = 0 ∧ s.phase.waiting = false ∧ csrWrite n v s = { s with cfg := cfgWritable v })
    ∨ ((n ≠ 0 ∨ s.phase.waiting = true) ∧ csrWrite n v s = s) := by
  unfold csrWrite
  split
  · rename_i h; exact .inl ⟨h.1, h.2, rfl⟩
  · rename_i h
    refine .inr ⟨?_, rfl⟩
    by_cases hn : n = 0
    · right; simpa [hn] using h
    · exact .inl hn

/-- A host read on the way to a next state (R44). -/
theorem readResult_next (c : Cfg) (r : ResultReg) (s t : State) (h : readResult c r s = .next t) :
    readable s r = true ∧ ∃ x, resultValue c s r = some x ∧ t = { s with result := x } := by
  unfold readResult at h
  split at h
  · rename_i hr
    split at h
    · rename_i x hx; cases h; exact ⟨hr, x, hx, rfl⟩
    · cases h
  · cases h

/-- Everything a step can do on the way to a next state. -/
theorem step_next (s t : State) (h : step s = .next t) :
    (s.inputs = [] ∧ pollStep Config.cfg false false none s = .next t)
    ∨ (∃ c rest, s.inputs = .command c :: rest ∧ exec (fetchCommand c s) { s with inputs := rest } = .next t)
    ∨ (∃ hl i sh rest, s.inputs = .poll hl i sh :: rest ∧ pollStep Config.cfg hl i sh { s with inputs := rest } = .next t)
    ∨ (∃ n rest, s.inputs = .arrive n :: rest ∧ t = arrive Config.cfg n { s with inputs := rest })
    ∨ (∃ n rest, s.inputs = .csrRead n :: rest ∧ t = csrRead Config.cfg n { s with inputs := rest })
    ∨ (∃ n v rest, s.inputs = .csrWrite n v :: rest ∧ t = csrWrite n v { s with inputs := rest })
    ∨ (∃ r rest, s.inputs = .readResult r :: rest ∧ readResult Config.cfg r { s with inputs := rest } = .next t) := by
  unfold step at h
  split at h <;> rename_i hi
  · exact .inl ⟨hi, h⟩
  · rename_i c rest; exact .inr (.inl ⟨c, rest, hi, h⟩)
  · rename_i a b d rest; exact .inr (.inr (.inl ⟨a, b, d, rest, hi, h⟩))
  · rename_i n rest; cases h; exact .inr (.inr (.inr (.inl ⟨n, rest, hi, rfl⟩)))
  · rename_i n rest; cases h; exact .inr (.inr (.inr (.inr (.inl ⟨n, rest, hi, rfl⟩))))
  · rename_i n v rest; cases h; exact .inr (.inr (.inr (.inr (.inr (.inl ⟨n, v, rest, hi, rfl⟩)))))
  · rename_i r rest; exact .inr (.inr (.inr (.inr (.inr (.inr ⟨r, rest, hi, h⟩)))))

end Sys2Proof.Machine
end

