-- ==== Sys2Proof/Laws/PerInstr.lean ====
section
/-! SUPPORT. Per-instruction laws: every encoded instruction carries its own row's code (R83, R89, R92). -/

namespace Sys2Proof.Laws.OpcodeField

/-- The `match` value of an instruction's row in the opcode table. -/
def rowCode : Instr → Nat
  | .connreq _ => 1
  | .connrsp _ => 2
  | .optreq _ => 3
  | .optrsp _ => 4
  | .data _ => 5
  | .acknack _ => 6
  | .alert _ => 7
  | .cmdreq _ => 8
  | .cmdrsp _ => 9
  | .cd1encap _ => 13
  | .customreset _ => 26
  | .nop => 0
  | .rdframe => 1
  | .decode => 2
  | .verify => 3
  | .encode _ => 4
  | .decodebuf _ => 5
  | .reset _ => 15
  | .reservedCmd6 => 6
  | .reservedCmd7 => 7
  | .reservedCmd8 => 8
  | .reservedCmd9 => 9
  | .reservedCmd10 => 10
  | .reservedCmd11 => 11
  | .reservedCmd12 => 12
  | .reservedCmd13 => 13
  | .reservedCmd14 => 14

/-- The opcode field of a word: the 32-bit word at frame offset 0, or the 4-bit command code (R92). -/
def fieldOf : InstrWord → Nat
  | .frame r => be32 r.hdr 0
  | .command c => c.code.toNat

/-- The word of an instruction carries its row's code. -/
def Statement (i : Instr) : Prop := fieldOf (encode i) = rowCode i

/-- The first word of an encoded header is the type code. -/
theorem header_word (t : FrameType) (f : Frame) : be32 (f.regions t).hdr 0 = t.code % 2 ^ 32 := by
  have h : slice (f.regions t).hdr 0 4 = toBe 4 t.code := by
    simp only [slice, Frame.regions, List.drop_zero, List.append_assoc]
    exact List.take_left' (toBe_length 4 t.code)
  rw [be32, h, beNat_toBe]; norm_num

theorem connreq (f : Frame) : Statement (.connreq f) := header_word .connectionRequest f

theorem connrsp (f : Frame) : Statement (.connrsp f) := header_word .connectionResponse f

theorem optreq (f : Frame) : Statement (.optreq f) := header_word .optionRequest f

theorem optrsp (f : Frame) : Statement (.optrsp f) := header_word .optionResponse f

theorem data (f : Frame) : Statement (.data f) := header_word .data f

theorem acknack (f : Frame) : Statement (.acknack f) := header_word .acknack f

theorem alert (f : Frame) : Statement (.alert f) := header_word .alert f

theorem cmdreq (f : Frame) : Statement (.cmdreq f) := header_word .commandRequest f

theorem cmdrsp (f : Frame) : Statement (.cmdrsp f) := header_word .commandResponse f

theorem cd1encap (f : Frame) : Statement (.cd1encap f) := header_word .cd1Encapsulation f

theorem customreset (f : Frame) : Statement (.customreset f) := header_word .customReset f

theorem nop : Statement .nop := rfl

theorem rdframe : Statement .rdframe := rfl

theorem decode : Statement .decode := rfl

theorem verify : Statement .verify := rfl

theorem encode (req : EncReq) : Statement (.encode req) := rfl

theorem decodebuf (buf : Bytes) : Statement (.decodebuf buf) := rfl

theorem reset (fresh : Bytes) : Statement (.reset fresh) := rfl

theorem reservedCmd6 : Statement .reservedCmd6 := rfl

theorem reservedCmd7 : Statement .reservedCmd7 := rfl

theorem reservedCmd8 : Statement .reservedCmd8 := rfl

theorem reservedCmd9 : Statement .reservedCmd9 := rfl

theorem reservedCmd10 : Statement .reservedCmd10 := rfl

theorem reservedCmd11 : Statement .reservedCmd11 := rfl

theorem reservedCmd12 : Statement .reservedCmd12 := rfl

theorem reservedCmd13 : Statement .reservedCmd13 := rfl

theorem reservedCmd14 : Statement .reservedCmd14 := rfl

end Sys2Proof.Laws.OpcodeField
end

