-- ==== Sys2Proof/Tests/Slice0.lean ====
section
/-! SUPPORT. The model's own tests. Expected values are written out from the spec: the examples of its rules and the test
vectors of 95_test_vectors.md; each test names its source. The last part holds, for every statement with hypotheses, a
concrete state and operands that meet them. -/

namespace Sys2Proof.Tests

open Sys2Proof.Machine Sys2Proof.Claims

/-! ## Helpers -/

def nextOf : Host.Outcome State Fault Refusal → Option State
  | .next s => some s
  | .fault _ => none
  | .refused _ => none

/-- A small configuration with the stand-in engine `SUM64` of 95_test_vectors.md and the recommended code sets. -/
def testCfg : Cfg :=
  { bodyMaxPred := 255, authMaxWords := 2, fifoDepth := 512, txMaxOver := 200
    crc64 := fun b => b.foldr (fun x a => x.setWidth 64 + a) 0
    tsDecode := fun _ => some 0, tsEncode := fun _ => none
    compressionCodes := [0, 1, 2, 3, 4], sensorCodes := [0, 1, 2, 3, 4]
    eposOverflow := fun _ => 0, lengthOverflow := fun _ _ => 0 }

/-- The frame V3 of 95_test_vectors.md, the shortest there is. -/
def v3 : Frame :=
  { trailerOffset := 37, creator := [], destination := [], sequence := 0, series := 0, body := [0xFF]
    authKeyId := 0, authSize := 0, authValue := [], checksum := 0x13E }

/-- The bytes of V3, as the spec dumps them. -/
def v3Bytes : Bytes :=
  [0x00, 0x00, 0x00, 0x1A, 0x00, 0x00, 0x00, 0x25] ++ zeros 28 ++ [0xFF] ++ zeros 8
    ++ [0x00, 0x00, 0x00, 0x00, 0x00, 0x00, 0x01, 0x3E]

/-- A frame with a given body, no authentication value, checksum 0. -/
def frameOfBody (body : Bytes) : Frame :=
  { v3 with trailerOffset := BitVec.ofNat 32 (36 + body.length), body := body, checksum := 0 }

/-- The state after reset with a frame held. -/
def holding (t : FrameType) (f : Frame) : State := setRegions (f.regions t) State.reset

/-- Twenty bytes of a timestamp: "2019123 12:34:56.789" (R130). -/
def stamp : Bytes :=
  [0x32, 0x30, 0x31, 0x39, 0x31, 0x32, 0x33, 0x20, 0x31, 0x32, 0x3A, 0x33, 0x34, 0x3A, 0x35, 0x36, 0x2E, 0x37, 0x38, 0x39]

/-! ## WellFormed refuses an ill-formed term at each check -/

theorem test_wf_accepts : (Instr.customreset v3).wellFormed = true := by decide

theorem test_wf_offset : (Instr.customreset { v3 with trailerOffset := 38 }).wellFormed = false := by decide

theorem test_wf_body : (Instr.alert { v3 with trailerOffset := 36, body := [] }).wellFormed = false := by decide

theorem test_wf_creator_long : (Instr.data { v3 with creator := [1, 2, 3, 4, 5, 6, 7, 8, 9] }).wellFormed = false := by decide

theorem test_wf_creator_null : (Instr.data { v3 with creator := [0x41, 0x00] }).wellFormed = false := by decide

theorem test_wf_destination : (Instr.acknack { v3 with destination := [0x00] }).wellFormed = false := by decide

theorem test_wf_auth : (Instr.cmdreq { v3 with authSize := 1, authValue := [0xAA] }).wellFormed = false := by decide

/-! ## Decoding: words written out from the encodings of R81, R82, R83 and R38 -/

/-- A frame of each type: the header of R161's example with the offset 37, a one-byte body, the trailer of R166's example. -/
def wordBytes (code : Byte) : Bytes :=
  [0x00, 0x00, 0x00, code, 0x00, 0x00, 0x00, 0x25, 0x53, 0x54, 0x41, 0x31, 0x00, 0x00, 0x00, 0x00,
    0x49, 0x44, 0x43, 0x00, 0x00, 0x00, 0x00, 0x00, 0x00, 0x00, 0x00, 0x00, 0x00, 0x00, 0x00, 0x2A,
    0x00, 0x00, 0x00, 0x00, 0xFF, 0x00, 0x00, 0x00, 0x07, 0x00, 0x00, 0x00, 0x02, 0xAA, 0xBB, 0x00, 0x00,
    0x01, 0x02, 0x03, 0x04, 0x05, 0x06, 0x07, 0x08]

def wordFrame : Frame :=
  { trailerOffset := 37, creator := [0x53, 0x54, 0x41, 0x31], destination := [0x49, 0x44, 0x43], sequence := 42, series := 0
    body := [0xFF], authKeyId := 7, authSize := 2, authValue := [0xAA, 0xBB, 0x00, 0x00], checksum := 0x0102030405060708 }

theorem test_decode_connreq : decodeFrame (wordBytes 0x01) = .ok (.connreq wordFrame, []) := by decide

theorem test_decode_connrsp : decodeFrame (wordBytes 0x02) = .ok (.connrsp wordFrame, []) := by decide

theorem test_decode_optreq : decodeFrame (wordBytes 0x03) = .ok (.optreq wordFrame, []) := by decide

theorem test_decode_optrsp : decodeFrame (wordBytes 0x04) = .ok (.optrsp wordFrame, []) := by decide

theorem test_decode_data : decodeFrame (wordBytes 0x05) = .ok (.data wordFrame, []) := by decide

theorem test_decode_acknack : decodeFrame (wordBytes 0x06) = .ok (.acknack wordFrame, []) := by decide

theorem test_decode_alert : decodeFrame (wordBytes 0x07) = .ok (.alert wordFrame, []) := by decide

theorem test_decode_cmdreq : decodeFrame (wordBytes 0x08) = .ok (.cmdreq wordFrame, []) := by decide

theorem test_decode_cmdrsp : decodeFrame (wordBytes 0x09) = .ok (.cmdrsp wordFrame, []) := by decide

theorem test_decode_cd1encap : decodeFrame (wordBytes 0x0D) = .ok (.cd1encap wordFrame, []) := by decide

theorem test_decode_customreset : decodeFrame (wordBytes 0x1A) = .ok (.customreset wordFrame, []) := by decide

theorem test_decode_unknown : decodeFrame (wordBytes 0x0A) = .error (.unknownType 10) := by decide

theorem test_decode_short : decodeFrame (v3Bytes.take 52) = .error .shortTrailer := by decide

theorem test_decode_command_0 : decodeTableWord 4 0 = some .nop := by decide

theorem test_decode_command_1 : decodeTableWord 4 1 = some .rdframe := by decide

theorem test_decode_command_2 : decodeTableWord 4 2 = some .decode := by decide

theorem test_decode_command_3 : decodeTableWord 4 3 = some .verify := by decide

theorem test_decode_command_4 : decodeTableWord 4 4 = some (.encode EncReq.zero) := by decide

theorem test_decode_command_5 : decodeTableWord 4 5 = some (.decodebuf []) := by decide

theorem test_decode_command_6 : decodeTableWord 4 6 = some .reservedCmd6 := by decide

theorem test_decode_command_7 : decodeTableWord 4 7 = some .reservedCmd7 := by decide

theorem test_decode_command_8 : decodeTableWord 4 8 = some .reservedCmd8 := by decide

theorem test_decode_command_9 : decodeTableWord 4 9 = some .reservedCmd9 := by decide

theorem test_decode_command_10 : decodeTableWord 4 10 = some .reservedCmd10 := by decide

theorem test_decode_command_11 : decodeTableWord 4 11 = some .reservedCmd11 := by decide

theorem test_decode_command_12 : decodeTableWord 4 12 = some .reservedCmd12 := by decide

theorem test_decode_command_13 : decodeTableWord 4 13 = some .reservedCmd13 := by decide

theorem test_decode_command_14 : decodeTableWord 4 14 = some .reservedCmd14 := by decide

theorem test_decode_command_15 : decodeTableWord 4 15 = some (.reset []) := by decide

theorem test_decode_table_frame : decodeTableWord 32 26
    = some (.customreset { v3 with trailerOffset := 0, body := [], checksum := 0 }) := by decide

theorem test_encode_v3 : (v3.regions .customReset).bytes = v3Bytes := by decide

/-! ## One step of each instruction -/

/-- R191's example. -/
def connBody : Bytes :=
  [0x00, 0x01, 0x00, 0x01, 0x53, 0x54, 0x41, 0x31, 0x00, 0x00, 0x00, 0x00, 0x49, 0x4D, 0x53, 0x00, 0x54, 0x43, 0x50, 0x00,
    0xC0, 0xA8, 0x01, 0x0A, 0x1F, 0x90, 0x00, 0x00, 0x00, 0x00, 0x00, 0x00]

def v3Req : EncReq :=
  { frameType := 26, frameCreator := [], frameDestination := [], sequenceNumber := 0
    variant := .record (.customReset { blob := [0xFF] }), authKeyId := 0, authValue := [] }

/-- R191. -/
theorem test_exec_connreq : (nextOf (exec (.connreq (frameOfBody connBody)) State.reset)).map (fun s => (s.v, s.warn, s.decoded))
    = some (.connectionRequest
        { majorVersion := 1, minorVersion := 1, stationName := [0x53, 0x54, 0x41, 0x31], stationType := [0x49, 0x4D, 0x53]
          serviceType := [0x54, 0x43, 0x50], ipAddress := 0xC0A8010A, port := 8080, secondIpAddress := 0, secondPort := 0 },
        0, true) := by decide

/-- R191: a body of 31 bytes fails at the last field, `EPOS` = 36 + 30. -/
theorem test_exec_connreq_short : (nextOf (exec (.connreq (frameOfBody (connBody.take 31))) State.reset)).map
    (fun s => (s.cause, s.subcause, s.epos)) = some (3, 4, 66) := by decide

/-- R193, R209: a longer body decodes and sets `W_BODYLEN`. -/
theorem test_exec_connrsp : (nextOf (exec (.connrsp (frameOfBody (connBody ++ [0x00]))) State.reset)).map (fun s => (s.v, s.warn))
    = some (.connectionResponse
        { majorVersion := 1, minorVersion := 1, responderName := [0x53, 0x54, 0x41, 0x31], responderType := [0x49, 0x4D, 0x53]
          serviceType := [0x54, 0x43, 0x50], ipAddress := 0xC0A8010A, port := 8080, secondIpAddress := 0, secondPort := 0 },
        1) := by decide

/-- R195's example. -/
def optBody : Bytes := [0, 0, 0, 1, 0, 0, 0, 1, 0, 0, 0, 4, 0x53, 0x54, 0x41, 0x31]

/-- R195. -/
theorem test_exec_optreq : (nextOf (exec (.optreq (frameOfBody optBody)) State.reset)).map (fun s => (s.v, s.warn))
    = some (.optionRequest { options := [{ optionType := 1, value := [0x53, 0x54, 0x41, 0x31] }] }, 0) := by decide

/-- R197: the second record promised and missing. -/
theorem test_exec_optrsp : (nextOf (exec (.optrsp (frameOfBody ([0, 0, 0, 2] ++ optBody.drop 4))) State.reset)).map
    (fun s => (s.cause, s.subcause, s.epos)) = some (3, 4, 52) := by decide

/-- R197. -/
theorem test_exec_optrsp_ok : (nextOf (exec (.optrsp (frameOfBody optBody)) State.reset)).map (fun s => (s.v, s.warn))
    = some (.optionResponse { options := [{ optionType := 1, value := [0x53, 0x54, 0x41, 0x31] }] }, 0) := by decide

/-- R199's example: "halt!". -/
theorem test_exec_alert : (nextOf (exec (.alert (frameOfBody [0, 0, 0, 5, 0x68, 0x61, 0x6C, 0x74, 0x21, 0, 0, 0])) State.reset)).map
    (fun s => (s.v, s.warn)) = some (.alert { message := [0x68, 0x61, 0x6C, 0x74, 0x21] }, 0) := by decide

/-- R201: an empty message. -/
theorem test_exec_cmdreq : (nextOf (exec (.cmdreq (frameOfBody (zeros 18 ++ stamp ++ zeros 4))) State.reset)).map
    (fun s => (s.v, s.warn)) = some (.commandRequest
        { stationName := [], siteName := [], channelName := [], locationName := [], timeStamp := stamp, commandMessage := [] },
        0) := by decide

/-- R203: two messages, the names at offsets 0, 8, 13 and 16. -/
theorem test_exec_cmdrsp : (nextOf (exec (.cmdrsp (frameOfBody ([1, 0, 0, 0, 0, 0, 0, 0, 2, 0, 0, 0, 0, 3, 0, 0, 4, 0] ++ stamp
      ++ [0, 0, 0, 1, 9, 0, 0, 0] ++ [0, 0, 0, 2, 7, 8, 0, 0]))) State.reset)).map (fun s => (s.v, s.warn))
    = some (.commandResponse
        { responderStation := [1], siteName := [2], channelName := [3], locationName := [4], timeStamp := stamp
          commandRequestMessage := [9], responseMessage := [7, 8] }, 0) := by decide

/-- The body of R225's scenario. -/
def ackBody : Bytes :=
  [0x4E, 0x45, 0x54, 0x30, 0x31, 0x3A, 0x30] ++ zeros 13 ++ zeros 8 ++ [0, 0, 0, 0, 0, 0, 0, 0x63] ++ [0, 0, 0, 2]
    ++ [0, 0, 0, 0, 0, 0, 0, 0x0A] ++ [0, 0, 0, 0, 0, 0, 0, 0x14] ++ [0, 0, 0, 0, 0, 0, 0, 0x32] ++ [0, 0, 0, 0, 0, 0, 0, 0x37]

/-- R225. -/
def ackRecord : Acknack :=
  { framesetAcked := [0x4E, 0x45, 0x54, 0x30, 0x31, 0x3A, 0x30], lowestSeqNum := 0, highestSeqNum := 99
    gapRanges := [(10, 20), (50, 55)] }

theorem test_exec_acknack : (nextOf (exec (.acknack (frameOfBody ackBody)) State.reset)).map (fun s => (s.v, s.warn))
    = some (.acknack ackRecord, 0) := by decide

/-- R116, R221: negative numbers decode as negative. -/
theorem test_exec_acknack_negative : (nextOf (exec (.acknack (frameOfBody (zeros 20 ++ List.replicate 8 0xFF ++ [0x80] ++ zeros 7
      ++ zeros 4))) State.reset)).map (fun s => s.v)
    = some (.acknack { framesetAcked := [], lowestSeqNum := -1, highestSeqNum := -(2 ^ 63), gapRanges := [] }) := by decide

/-- The channel subframe header of R233's example: one channel. -/
def cshBody : Bytes :=
  [0, 0, 0, 1, 0, 0, 0x27, 0x10] ++ stamp ++ [0, 0, 0, 0x0A] ++ [0x53, 0x54, 0x41, 0x31, 0, 0x42, 0x48, 0x5A, 0, 0] ++ [0, 0]

/-- R248, R253 (a): the declared subframe is missing, so the frame is degraded and slot 0 is logged at offset 44. -/
theorem test_exec_data_degraded : (nextOf (exec (.data (frameOfBody cshBody)) State.reset)).map
    (fun s => (s.decoded, s.degraded, s.skipList, s.warn, s.cause))
    = some (true, true, [{ index := 0, subcause := 4, offset := 44 }], 0, 0) := by decide

/-- R233: a channel string count other than ten times the channel count. -/
theorem test_exec_data_chanstr : (nextOf (exec (.data (frameOfBody (zeros 31 ++ [1]))) State.reset)).map
    (fun s => (s.cause, s.subcause, s.epos, s.decoded)) = some (3, 9, 64, false) := by decide

/-- R207. -/
theorem test_exec_cd1encap : (nextOf (exec (.cd1encap v3) State.reset)).map
    (fun s => (s.cause, s.subcause, s.epos, s.hdrValid, s.decoded)) = some (3, 8, 36, true, false) := by decide

/-- V3. -/
theorem test_exec_customreset : (nextOf (exec (.customreset v3) State.reset)).map
    (fun s => (s.v, s.hType, s.hToff, s.tCksum, s.warn, s.decoded))
    = some (.customReset { blob := [0xFF] }, 26, 37, 0x13E, 0, true) := by decide

/-- R280: `NOP` during a frame read keeps `CAUSE` and `BUSY`. -/
theorem test_exec_nop : (nextOf (exec .nop { State.reset with phase := .wBody, cause := 7 })).map
    (fun s => (s.phase, s.cause)) = some (.wBody, 7) := by decide

/-- R141's example. -/
theorem test_exec_rdframe : (nextOf (exec .rdframe State.reset)).map (fun s => (s.phase, s.fstart, s.status)) = some (.wHdr, 0, 1) := by
  decide

/-- R40: refused on an invalid stream. -/
theorem test_exec_rdframe_desynced : (nextOf (exec .rdframe { State.reset with desync := true })).map
    (fun s => (s.cause, s.subcause, s.phase)) = some (7, 2, .idle) := by decide

/-- V3: `STATUS` after `DECODE` has FRAME_READY, HDR_VALID, DECODED. -/
theorem test_exec_decode : (nextOf (exec .decode (holding .customReset v3))).map (fun s => (s.status, s.v))
    = some (0x0E, .customReset { blob := [0xFF] }) := by decide

/-- R85: an unknown type, frame X. -/
theorem test_exec_decode_unknown : (nextOf (exec .decode (setRegions { v3.regions .customReset with
      hdr := (wordBytes 0x0A).take 36 } State.reset))).map (fun s => (s.cause, s.subcause, s.epos, s.hdrValid, s.rawValid))
    = some (3, 1, 0, false, true) := by decide

/-- R172: the held, decoded frame is checked. -/
theorem test_exec_verify : (nextOf (exec .verify { holding .customReset v3 with decoded := true, tCksum := 0x13E })).map
    (fun s => (s.crcChecked, s.decoded, s.cause)) = some (true, true, 0) := by decide

/-- V3 under `SUM64`: the stored checksum 0x13E is the sum of the frame with its checksum zeroed. -/
theorem test_sum64_v3 : (checkCrc testCfg v3Bytes { State.reset with tCksum := 0x13E }).crcOk = true := by decide

/-- R180: the request V3 gives the bytes V3. -/
theorem test_encode_request_v3 : (encodeFrame testCfg v3Req) = .ok v3Bytes := by decide +kernel

/-- R268: the type is compared first. -/
theorem test_exec_encode_mismatch : (nextOf (exec (.encode { v3Req with frameType := 13 }) State.reset)).map
    (fun s => (s.cause, s.subcause, s.txValid)) = some (6, 1, false) := by decide

/-- R179: V3 and a byte after it, with `SUM64`; `STATUS` = 0x03E as V3 says. -/
theorem test_decodebuf_v3 : ((decodeBuf testCfg (v3Bytes ++ [0x55]) State.reset).status,
    (decodeBuf testCfg (v3Bytes ++ [0x55]) State.reset).bodyLen) = (0x3E, 1) := by decide

/-- R179: an empty buffer. -/
theorem test_exec_decodebuf_short : (nextOf (exec (.decodebuf []) (holding .customReset v3))).map
    (fun s => (s.cause, s.subcause, s.epos, s.phase, s.rawValid)) = some (3, 4, 0, .idle, false) := by decide

/-- R291's example: `RESET` ends a desynchronisation. -/
theorem test_exec_reset : (nextOf (exec (.reset [1, 2]) { State.reset with desync := true, spos := 36, cause := 2 })).map
    (fun s => (s.spos, s.status, s.stream, s.cfg)) = some (0, 0, [1, 2], 1) := by decide

/-- R281. -/
theorem test_exec_reserved_6 : (nextOf (exec .reservedCmd6 { State.reset with phase := .wTr1, epos := 9 })).map
    (fun s => (s.cause, s.subcause, s.epos, s.phase)) = some (7, 4, 0, .wTr1) := by decide

/-- R281. -/
theorem test_exec_reserved_7 : (nextOf (exec .reservedCmd7 { State.reset with phase := .wTr1, epos := 9 })).map
    (fun s => (s.cause, s.subcause, s.epos, s.phase)) = some (7, 4, 0, .wTr1) := by decide

/-- R281. -/
theorem test_exec_reserved_8 : (nextOf (exec .reservedCmd8 { State.reset with phase := .wTr1, epos := 9 })).map
    (fun s => (s.cause, s.subcause, s.epos, s.phase)) = some (7, 4, 0, .wTr1) := by decide

/-- R281. -/
theorem test_exec_reserved_9 : (nextOf (exec .reservedCmd9 { State.reset with phase := .wTr1, epos := 9 })).map
    (fun s => (s.cause, s.subcause, s.epos, s.phase)) = some (7, 4, 0, .wTr1) := by decide

/-- R281. -/
theorem test_exec_reserved_10 : (nextOf (exec .reservedCmd10 { State.reset with phase := .wTr1, epos := 9 })).map
    (fun s => (s.cause, s.subcause, s.epos, s.phase)) = some (7, 4, 0, .wTr1) := by decide

/-- R281. -/
theorem test_exec_reserved_11 : (nextOf (exec .reservedCmd11 { State.reset with phase := .wTr1, epos := 9 })).map
    (fun s => (s.cause, s.subcause, s.epos, s.phase)) = some (7, 4, 0, .wTr1) := by decide

/-- R281. -/
theorem test_exec_reserved_12 : (nextOf (exec .reservedCmd12 { State.reset with phase := .wTr1, epos := 9 })).map
    (fun s => (s.cause, s.subcause, s.epos, s.phase)) = some (7, 4, 0, .wTr1) := by decide

/-- R281. -/
theorem test_exec_reserved_13 : (nextOf (exec .reservedCmd13 { State.reset with phase := .wTr1, epos := 9 })).map
    (fun s => (s.cause, s.subcause, s.epos, s.phase)) = some (7, 4, 0, .wTr1) := by decide

/-- R281. -/
theorem test_exec_reserved_14 : (nextOf (exec .reservedCmd14 { State.reset with phase := .wTr1, epos := 9 })).map
    (fun s => (s.cause, s.subcause, s.epos, s.phase)) = some (7, 4, 0, .wTr1) := by decide

/-! ## Subframes, the streamer, the step -/

/-- The least subframe of V4's part: 80 bytes. -/
def sfBytes : Bytes :=
  [0, 0, 0, 0x4C, 0, 0, 0, 0x48, 0, 0, 0, 1, 0x53, 0, 0, 0, 0, 0x43, 0, 0, 0, 0, 0x73, 0x34, 0x3F, 0x80, 0, 0, 0x3F, 0x80, 0, 0]
    ++ stamp ++ [0, 0, 3, 0xE8, 0, 0, 0, 2, 0, 0, 0, 0, 0, 0, 0, 0, 0, 0, 0, 1, 0, 0, 0, 0, 0, 0, 0, 0]

/-- The record of those bytes. -/
def sfRecord : ChannelSubframe :=
  { channelLength := 76, authOffset := 72, authenticationOn := { raw := 0 }, compressionFormat := 0, sensorType := 0
    isCalib := { raw := 1 }, siteName := [0x53], channelName := [0x43], locationName := [], dataType := [0x73, 0x34]
    calibrationFactor := 0x3F800000, calibrationPeriod := 0x3F800000, timeStamp := stamp, subframeTimeLengthMs := 1000
    sampleCount := 2, channelStatusData := [], channelData := [], subframeCount := 1, authKeyId := 0, authValue := [] }

theorem test_subframe : csfDec testCfg sfBytes 0 = .ok sfRecord 80 := by decide

/-- R245: 2 samples in 1000 ms are 2 Hz. -/
theorem test_rate : sampleRateHz sfRecord = some 2 := by norm_num [sampleRateHz, sfRecord]

/-- R234: four null bytes after the channel string are taken as padding when `CFG.REALIGN` is 1. -/
theorem test_realign : (dataDec testCfg true (cshBody ++ zeros 4 ++ sfBytes) = .ok
      { v := .data { header := { numChannels := 1, frameTimeLengthMs := 10000, nominalTime := stamp
                                 channelString := [0x53, 0x54, 0x41, 0x31, 0, 0x42, 0x48, 0x5A, 0, 0] }
                     subframes := [sfRecord] }, skips := [], warn := 4 } 128) := by decide +kernel

/-- R152's example: nothing available and `halt` = 1 cancels cleanly. -/
theorem test_poll_cancel : (nextOf (pollStep testCfg true false none { State.reset with phase := .wHdr })).map
    (fun s => (s.cause, s.subcause, s.phase, s.desync)) = some (1, 1, .idle, false) := by decide

/-- R149: a trailer offset of 36 is fatal, 37 is good. -/
theorem test_poll_header : (nextOf (pollStep testCfg false false none { State.reset with phase := .wHdr, fifo := [0, 0, 0, 26, 0, 0, 0, 36] ++ zeros 28 })).map (fun s => (s.cause, s.subcause, s.epos, s.desync, s.spos))
    = some (3, 2, 4, true, 36) := by decide

/-- A step with V3 held and `DECODE` on the command port runs V3. -/
theorem test_step_held : (nextOf (Sys2Proof.Machine.step { holding .customReset v3 with inputs := [.command (Command.plain 2)] })).map
    (fun s => (s.v, s.inputs)) = some (.customReset { blob := [0xFF] }, []) := by decide

/-- The word of a table row, placed, is what the next step runs. -/
theorem test_step_placed : (nextOf (Sys2Proof.Machine.step (State.reset.withFetchWord 32 13))).map (fun s => (s.cause, s.subcause))
    = some (3, 2) := by decide

/-! ## Witnesses: a state and operands that meet the hypotheses of each statement -/

def v3Regions : Regions := v3.regions .customReset

theorem v3_complete (c : Cfg) : CompleteFrame c v3Regions where
  hdr_length := by decide
  body_pos := by decide
  toff_eq := by decide
  body_fits := by show 1 ≤ c.bodyMaxPred.val + 1; omega
  tr1_length := by decide
  tr2_length := by decide
  auth_fits := by show 0 ≤ 4 * c.authMaxWords.val; omega

theorem v3_fits (c : Cfg) : 53 ≤ c.txMax := by show 53 ≤ c.txMaxOver + 53; omega

/-- A frame read that has just started. -/
def waitingHeader : State := { State.reset with phase := .wHdr }

/-- A frame read whose header, that of V3, has been consumed. -/
def waitingBody : State :=
  { State.reset with phase := .wBody, spos := 36, hdrBuf := Memory.ofBytes v3Regions.hdr }

/-- The same after the body. -/
def waitingTr1 : State :=
  { waitingBody with phase := .wTr1, spos := 37, bodyBuf := Memory.ofBytes [0xFF], bodyLen := 1 }

/-- The same after trailer segment 1. -/
def waitingTr2 : State := { waitingTr1 with phase := .wTr2, spos := 45, tr1Buf := Memory.ofBytes (zeros 8) }

theorem test_witness_EncodeUndoesDecode :
    decodeRegions v3Regions = .ok (.customreset v3) ∧ be32 v3Regions.hdr 4 = 36 + v3Regions.body.length ∧ 0 < v3Regions.body.length := by
  decide

theorem test_witness_FrameBytesDecodeBack : v3.wellFormed = true ∧ wordFrame.wellFormed = true := by decide

theorem test_witness_UnknownTypeIsBadType :
    let r : Regions := { v3Regions with hdr := (wordBytes 0x0A).take 36 }
    (setRegions r State.reset).rawValid = true ∧ heldRegions (setRegions r State.reset) = some r
      ∧ be32 r.hdr 0 ∉ [1, 2, 3, 4, 5, 6, 7, 8, 9, 13, 26] ∧ FrameType.ofCode 26 = some .customReset := by decide

theorem test_witness_Pad4IsTheLeastMultiple : 4 ∣ 8 ∧ 5 ≤ 8 ∧ putVar [1, 2, 3, 4, 5] = .ok [0, 0, 0, 5, 1, 2, 3, 4, 5, 0, 0, 0] := by
  decide

theorem test_witness_FieldsThatDoNotFitFail :
    getUInt 5 (zeros 4) 0 = .fail .shortField 0 ∧ getUInt 4 (zeros 4) 0 = .ok 0 4 ∧ getBytes (zeros 4) 4 0 = .ok [] 4
      ∧ getBytes (zeros 4) 1 4 = .fail .shortField 1 ∧ skip (zeros 4) 4 1 = .fail .shortField 4 ∧ getStr 5 (zeros 4) 0 = .fail .shortField 0
      ∧ getVar (zeros 3) 0 = .fail .shortField 0 ∧ getVar [0, 0, 0, 1, 9, 0, 0] 0 = .fail .shortField 4
      ∧ getVar [0, 0, 0, 1, 9, 0, 0, 0] 0 = .ok [9] 8 := by decide

theorem test_witness_IntegersRoundTrip : 255 < 256 ^ 1 ∧ 256 ^ 1 ≤ 256 ∧ (-(2 ^ 63) : Int) ≤ -(2 ^ 63) ∧ (-(2 ^ 63) : Int) < 2 ^ 63
    ∧ (2 ^ 63 - 1 : Int) < 2 ^ 63 ∧ (2 ^ 63 : Int) ≤ 2 ^ 63 ∧ (-(2 ^ 63) - 1 : Int) < -(2 ^ 63) := by norm_num

theorem test_witness_StringsAndVariableFieldsRoundTrip :
    ([1, 0x7F] : Bytes).length ≤ 2 ∧ Ascii [1, 0x7F] ∧ 1 < ([1, 0x7F] : Bytes).length ∧ ¬ Ascii [0] ∧ ¬ Ascii [0x80]
      ∧ ([9] : Bytes).length < 2 ^ 32 ∧ ([1, 2, 3] : Bytes).length = padlen ([9] : Bytes).length := by
  simp [Ascii, padlen, pad4]

theorem test_witness_EnumAndBooleanBytes : (4 : Byte) ∈ testCfg.sensorCodes ∧ (5 : Byte) ∉ testCfg.sensorCodes := by decide

theorem test_witness_ControlBodyLayouts :
    32 ≤ connBody.length ∧ (connBody.take 31).length < 32 ∧ 42 + pad4 (be32 (zeros 42) 38) ≤ (zeros 42).length
      ∧ 42 + pad4 (be32 (zeros 46) 38) + 4 + pad4 (be32 (zeros 46) (42 + pad4 (be32 (zeros 46) 38))) ≤ (zeros 46).length
      ∧ 4 + pad4 (be32 [0, 0, 0, 1, 9, 0, 0, 0] 0) ≤ ([0, 0, 0, 1, 9, 0, 0, 0] : Bytes).length := by decide

/-- R195's example is one option of 16 bytes; cut at 7, 11 and 15 bytes it fails at the type, the size and the value. -/
theorem test_witness_ControlBodyLayouts_options :
    4 ≤ optBody.length ∧ optionAt optBody (be32 optBody 0) = 16 ∧ 16 ≤ optBody.length ∧ (zeros 3).length < 4
      ∧ (optBody.take 15).length < optionAt (optBody.take 15) (be32 (optBody.take 15) 0)
      ∧ optReqDec (optBody.take 7) = .fail .shortField 4 ∧ optReqDec (optBody.take 11) = .fail .shortField 8
      ∧ optReqDec (optBody.take 15) = .fail .shortField 12 := by decide

theorem test_witness_AcknackLayout : 40 + 16 * be32 ackBody 36 ≤ ackBody.length ∧ (zeros 39).length < 40
    ∧ (ackBody.take 71).length < 40 + 16 * be32 (ackBody.take 71) 36 := by decide

theorem test_witness_SubframeLayoutAndFailures :
    csfDec testCfg sfBytes 0 = .ok sfRecord 80 ∧ csfDec testCfg (sfBytes.take 79) 0 = .fail .shortField 76
      ∧ csfDec testCfg (sfBytes.set 9 5) 0 = .fail .badEnum 9 ∧ csfDec testCfg (sfBytes.set 10 5) 0 = .fail .badEnum 10
      ∧ csfDec testCfg (sfBytes.set 12 0x20) 0 = .fail .blankField 12 ∧ csfDec testCfg (sfBytes.set 17 0) 0 = .fail .blankField 17 := by
  decide

theorem test_witness_PlainBodiesRoundTrip :
    (∃ r, connReqEnc r = .ok connBody) ∧ (∃ r, connRspEnc r = .ok connBody) ∧ (∃ r, optReqEnc r = .ok optBody)
      ∧ (∃ r, optRspEnc r = .ok optBody) ∧ acknackEnc ackRecord = .ok ackBody
      ∧ alertEnc { message := [9] } = .ok [0, 0, 0, 1, 9, 0, 0, 0]
      ∧ (∃ r, cmdReqEnc r = .ok (zeros 18 ++ stamp ++ zeros 4)) ∧ (∃ r, cmdRspEnc r = .ok (zeros 18 ++ stamp ++ zeros 8))
      ∧ customResetEnc { blob := [0xFF] } = .ok [0xFF] := by
  refine ⟨⟨⟨1, 1, [0x53, 0x54, 0x41, 0x31], [0x49, 0x4D, 0x53], [0x54, 0x43, 0x50], 0xC0A8010A, 8080, 0, 0⟩, by decide⟩,
    ⟨⟨1, 1, [0x53, 0x54, 0x41, 0x31], [0x49, 0x4D, 0x53], [0x54, 0x43, 0x50], 0xC0A8010A, 8080, 0, 0⟩, by decide⟩,
    ⟨⟨[⟨1, [0x53, 0x54, 0x41, 0x31]⟩]⟩, by decide⟩, ⟨⟨[⟨1, [0x53, 0x54, 0x41, 0x31]⟩]⟩, by decide⟩, by decide +kernel, by decide,
    ⟨⟨[], [], [], [], stamp, []⟩, by decide⟩, ⟨⟨[], [], [], [], stamp, [], []⟩, by decide⟩, by decide⟩

theorem test_witness_RawGapArraysAreChecked :
    let bad : EncReq := { v3Req with frameType := 6, variant := .rawAcknack [] 0 0 1 [1, 2, 3] }
    ([1, 2, 3] : List Int).length % 2 ≠ 0 ∧ 1 ≠ ([1, 2, 3, 4] : List Int).length / 2 ∧ ([1, 2, 3, 4] : List Int).length = 2 * 2
      ∧ State.reset.phase.waiting = false ∧ mkAcknack [] 0 0 1 [1, 2, 3] = .error .badGaps
      ∧ bad.variant = .rawAcknack [] 0 0 1 [1, 2, 3] ∧ bad.frameType = 6 ∧ v3Req.frameType ≠ 6
      ∧ mkAcknack [] 0 0 1 [1, 2] = .ok { framesetAcked := [], lowestSeqNum := 0, highestSeqNum := 0, gapRanges := [(1, 2)] }
      ∧ acknackDec [] = .fail .shortField 0 := by decide

/-- R268: a raw Acknack with a bad gap array and another type is `TYPE_MISMATCH`, with type 6 `BAD_GAPS`. -/
theorem test_type_before_gaps :
    encodeFrame testCfg { v3Req with variant := .rawAcknack [] 0 0 1 [1, 2, 3] } = .error .typeMismatch
      ∧ encodeFrame testCfg { v3Req with frameType := 6, variant := .rawAcknack [] 0 0 1 [1, 2, 3] } = .error .badGaps := by decide

/-- A Data record with one channel. -/
def dataRecord : DataFrame :=
  { header := { numChannels := 1, frameTimeLengthMs := 10000, nominalTime := stamp
                channelString := [0x53, 0x54, 0x41, 0x31, 0, 0x42, 0x48, 0x5A, 0, 0] }
    subframes := [sfRecord] }

theorem test_witness_DataRoundTrip : dataEnc testCfg dataRecord = .ok (cshBody ++ sfBytes) ∧ CanonicalVariant (.data dataRecord) := by
  refine ⟨by decide +kernel, ?_⟩
  intro f hf
  obtain rfl : f = sfRecord := by simpa [dataRecord] using hf
  exact ⟨.inl rfl, .inr rfl⟩

theorem test_witness_DataSlotsAreAccountedFor :
    (dataDec testCfg false (cshBody ++ sfBytes) = .ok { v := .data dataRecord, skips := [], warn := 0 } 124)
      ∧ (∃ x, dataDec testCfg true cshBody = .ok x 44) ∧ dataDec testCfg true (cshBody.take 43) = .fail .shortField 42
      ∧ 32 ≤ (zeros 31 ++ [1] : Bytes).length ∧ be32 (zeros 31 ++ [1]) 28 ≠ 10 * be32 (zeros 31 ++ [1]) 0 := by
  refine ⟨by decide +kernel, ⟨{ v := .data { dataRecord with subframes := [] }, skips := [⟨0, 4, 44⟩], warn := 0 }, by decide⟩,
    by decide, by decide, by decide⟩

/-- A failed slot with a true `channel_length` is resumed behind, one at the end of the body gives up, a decoded slot that
declares another length differs, and four null bytes are taken as padding (R234, R248, R249). -/
theorem test_witness_DataSlotsAreAccountedFor_slots :
    slotAt testCfg (sfBytes.set 10 5 ++ sfBytes) 0 1 = (80, true) ∧ slotFrame testCfg (sfBytes.set 10 5 ++ sfBytes) 0 1 = some sfRecord
      ∧ slotSkip testCfg (sfBytes.set 10 5 ++ sfBytes) 0 0 = some ⟨0, 5, 0⟩ ∧ slotAt testCfg cshBody 44 1 = (44, false)
      ∧ slotSkip testCfg cshBody 44 1 = some ⟨1, 4, 44⟩ ∧ SlotLengthDiffers testCfg (sfBytes.set 3 0x48) 0 0
      ∧ slice (cshBody ++ zeros 4) 44 4 = [0, 0, 0, 0] :=
  ⟨by decide +kernel, by decide +kernel, by decide +kernel, by decide, by decide, ⟨0, { sfRecord with channelLength := 0x48 }, 80, by decide, by decide, by decide⟩,
    by decide⟩

theorem test_witness_ControlFramesAreDelivered :
    (frameOfBody connBody).wellFormed = true ∧ (∃ r, connReqDec (frameOfBody connBody).body = .ok r 32)
      ∧ (∃ r, connRspDec (frameOfBody connBody).body = .ok r 32)
      ∧ (frameOfBody optBody).wellFormed = true ∧ (∃ r, optReqDec (frameOfBody optBody).body = .ok r 16)
      ∧ (∃ r, optRspDec (frameOfBody optBody).body = .ok r 16)
      ∧ (frameOfBody (zeros 46)).wellFormed = true ∧ (∃ r, alertDec (frameOfBody (zeros 46)).body = .ok r 4)
      ∧ (∃ r, cmdReqDec (frameOfBody (zeros 46)).body = .ok r 42) ∧ (∃ r, cmdRspDec (frameOfBody (zeros 46)).body = .ok r 46) := by
  exact ⟨by decide, ⟨_, rfl⟩, ⟨_, rfl⟩, by decide, ⟨_, rfl⟩, ⟨_, rfl⟩, by decide, ⟨_, rfl⟩, ⟨_, rfl⟩, ⟨_, rfl⟩⟩

theorem test_witness_AcknackIsDelivered :
    (frameOfBody ackBody).wellFormed = true ∧ 40 + 16 * be32 (frameOfBody ackBody).body 36 ≤ (frameOfBody ackBody).body.length := by
  decide

theorem test_witness_DataIsDelivered :
    (frameOfBody cshBody).wellFormed = true ∧ 32 + pad4 (be32 (frameOfBody cshBody).body 28) ≤ (frameOfBody cshBody).body.length
      ∧ be32 (frameOfBody cshBody).body 28 = 10 * be32 (frameOfBody cshBody).body 0 := by decide

theorem test_witness_MalformedBodiesAreRejected :
    v3.wellFormed = true ∧ connReqDec v3.body = .fail .shortField 0 ∧ connRspDec v3.body = .fail .shortField 0
      ∧ optReqDec v3.body = .fail .shortField 0 ∧ optRspDec v3.body = .fail .shortField 0 ∧ acknackDec v3.body = .fail .shortField 0
      ∧ alertDec v3.body = .fail .shortField 0 ∧ cmdReqDec v3.body = .fail .shortField 0 ∧ cmdRspDec v3.body = .fail .shortField 0
      ∧ dataDec Config.cfg State.reset.realign v3.body = .fail .shortField 0 := by decide

theorem test_witness_RefusedCommands :
    waitingBody.phase.waiting = true ∧ ({ State.reset with desync := true } : State).phase.waiting = false
      ∧ State.reset.rawValid = false ∧ (holding .customReset v3).decoded = false := by decide

theorem test_witness_RdframeStartsAFrameRead :
    State.reset.phase.waiting = false ∧ State.reset.desync = false ∧ waitingHeader.phase.waiting = true
      ∧ (Command.plain 1).code = 1 := by decide

theorem test_witness_DecodeDeliversTheHeldFrame :
    (holding .customReset v3).rawValid = true ∧ heldRegions (holding .customReset v3) = some v3Regions
      ∧ be32 v3Regions.hdr 0 = FrameType.customReset.code ∧ 36 < be32 v3Regions.hdr 4
      ∧ bodyDec Config.cfg (holding .customReset v3).realign .customReset v3Regions.body
        = .ok { v := .customReset { blob := [0xFF] }, skips := [], warn := 0 } 1
      ∧ pad4 (be32 v3Regions.tr1 4) + 8 ≤ v3Regions.tr2.length := by decide

theorem test_witness_DecodeReportsTheFirstFailure :
    let badType : Regions := { v3Regions with hdr := (wordBytes 0x0A).take 36 }
    let badToff : Regions := { v3Regions with hdr := [0, 0, 0, 26, 0, 0, 0, 36] ++ zeros 28 }
    let reserved : Regions := { v3Regions with hdr := (wordBytes 0x0D).take 36 }
    let shortAuth : Regions := { v3Regions with tr1 := [0, 0, 0, 0, 0, 0, 0, 1] }
    heldRegions (setRegions badType State.reset) = some badType ∧ FrameType.ofCode (be32 badType.hdr 0) = none
      ∧ heldRegions (setRegions badToff State.reset) = some badToff ∧ be32 badToff.hdr 0 = FrameType.customReset.code
      ∧ be32 badToff.hdr 4 ≤ 36
      ∧ heldRegions (setRegions reserved State.reset) = some reserved ∧ be32 reserved.hdr 0 = FrameType.cd1Encapsulation.code
      ∧ 36 < be32 reserved.hdr 4 ∧ bodyDec Config.cfg State.reset.realign .cd1Encapsulation reserved.body = .fail .unsupportedType 0
      ∧ heldRegions (setRegions shortAuth State.reset) = some shortAuth
      ∧ shortAuth.tr2.length < pad4 (be32 shortAuth.tr1 4) + 8 := by decide

theorem test_witness_DecodeRunsTheHeldFrame : heldInstr (holding .customReset v3) = some (.customreset v3) := by decide

theorem test_witness_DecodeForgetsEarlierFrames :
    let s := holding .customReset v3
    let s' := { s with warn := 7, decoded := true, crcChecked := true, degraded := true, hSeq := 9 }
    s.rawValid = true ∧ s'.rawValid = true ∧ heldRegions s = heldRegions s' ∧ s.realign = s'.realign
      ∧ ∃ t, exec .decode s = .next t :=
  ⟨rfl, rfl, rfl, rfl, ⟨_, rfl⟩⟩

theorem test_witness_VerifyComparesTheReceivedBytes :
    let s := { holding .customReset v3 with decoded := true }
    s.rawValid = true ∧ s.decoded = true ∧ heldRegions s = some v3Regions := by decide

/-- `SUM64` is single-byte sensitive: two bytes differ, the rest of the sum is the same. -/
theorem test_witness_ChecksumFindsAChange_engine : SingleByteSensitive testCfg.crc64 := by
  intro pre suf x y hxy h
  have step : ∀ p : Bytes, testCfg.crc64 (p ++ x :: suf) = testCfg.crc64 (p ++ y :: suf) → x.setWidth 64 = y.setWidth 64 := by
    intro p
    induction p with
    | nil =>
      intro h
      simpa [testCfg] using h
    | cons z p ih =>
      intro h
      refine ih ?_
      simpa [testCfg] using h
  have := step pre h
  apply hxy
  bv_omega

theorem test_witness_ChecksumFindsAChange :
    v3Bytes = v3Bytes.take 36 ++ 0xFF :: v3Bytes.drop 37
      ∧ 8 ≤ (v3Bytes.drop 37).length ∧ (0xFF : Byte) ≠ 0xFE
      ∧ (checkCrc testCfg v3Bytes { State.reset with tCksum := 0x13E }).crcOk = true
      ∧ (v3Bytes.set 52 0x3F).take 45 = v3Bytes.take 45 ∧ (0x13F : BitVec 64) ≠ 0x13E := by decide

theorem test_witness_EncodeOffersTheFrame :
    State.reset.phase.waiting = false ∧ resolveVariant Config.cfg v3Req = .ok (.customReset { blob := [0xFF] })
      ∧ v3Req.frameType = (Variant.frameType (.customReset { blob := [0xFF] })).code
      ∧ bodyEnc Config.cfg (.customReset { blob := [0xFF] }) = .ok [0xFF]
      ∧ FitsField 8 v3Req.frameCreator ∧ FitsField 8 v3Req.frameDestination
      ∧ v3Req.sequenceNumber < 2 ^ 64 ∧ v3Req.series < 2 ^ 32 ∧ v3Req.authKeyId < 2 ^ 32 ∧ v3Req.authValue.length < 2 ^ 32
      ∧ 36 + 1 + 16 + pad4 v3Req.authValue.length ≤ Config.cfg.txMax := by
  refine ⟨rfl, rfl, rfl, rfl, by simp [FitsField, Ascii, v3Req], by simp [FitsField, Ascii, v3Req], by decide, by decide, by decide,
    by decide, ?_⟩
  have := v3_fits Config.cfg
  simpa [v3Req, pad4] using this

/-- A command request whose instant is converted, and the request of V3 in the raw form of an Acknack. -/
theorem test_witness_EncodeOffersTheFrame_resolved :
    let c : Cfg := { testCfg with tsEncode := fun _ => some (Vector.replicate 20 0x31) }
    let r : CommandRequest := ⟨[], [], [], [], stamp, []⟩
    resolveVariant c { v3Req with variant := .record (.commandRequest r), times := [some 0] }
        = .ok (.commandRequest { r with timeStamp := List.replicate 20 0x31 })
      ∧ resolveVariant c { v3Req with variant := .rawAcknack [] 0 0 0 [] } = .ok (.acknack ⟨[], 0, 0, []⟩) := ⟨rfl, rfl⟩

theorem test_witness_EncodeRejections :
    let v : Variant := .customReset { blob := [0xFF, 0xFE] }
    let small : Cfg := { testCfg with txMaxOver := 0 }
    resolveVariant small { v3Req with variant := .record v } = .ok v ∧ v3Req.frameType = (Variant.frameType v).code
      ∧ (13 : Nat) ≠ (Variant.frameType v).code ∧ bodyEnc small v = .ok [0xFF, 0xFE]
      ∧ bodyEnc small (.alert { message := [] }) = .ok [0, 0, 0, 0] ∧ bodyEnc small (.customReset { blob := [] }) = .ok []
      ∧ bodyEnc small (.commandRequest ⟨[1, 2, 3, 4, 5, 6, 7, 8, 9], [], [], [], stamp, []⟩) = .error .strTooLong
      ∧ 8 < (zeros 9).length ∧ ¬ Ascii (zeros 8) ∧ (zeros 8).length ≤ 8 ∧ FitsField 8 [1, 0x7F] ∧ 2 ^ 64 ≤ 2 ^ 64 ∧ 2 ^ 32 ≤ 2 ^ 32
      ∧ small.txMax < 36 + 2 + 16 + pad4 v3Req.authValue.length := by
  refine ⟨rfl, rfl, by decide, rfl, rfl, rfl, by decide, by decide, ?_, by decide, by simp [FitsField, Ascii], by decide, by decide,
    by decide⟩
  intro h
  have := h 0 (by simp [zeros])
  simp at this

theorem test_witness_EncodeRejections_instants :
    let c : Cfg := { testCfg with tsEncode := fun _ => none }
    let r : CommandRequest := ⟨[], [], [], [], stamp, []⟩
    let data : EncReq := { v3Req with frameType := 5, variant := .record (.data dataRecord), times := [none, some 0] }
    c.tsEncode 0 = none ∧ FitsField 8 r.stationName ∧ data.times[0 + 1]? = some (some 0) ∧ 0 < dataRecord.subframes.length
      ∧ encodeFrame c data = .error .range
      ∧ encodeFrame c { data with times := [some 0] } = .error .range
      ∧ encodeFrame c { v3Req with frameType := 8, variant := .record (.commandRequest r), times := [some 0] } = .error .range :=
  ⟨rfl, by simp [FitsField, Ascii], rfl, by decide, by decide +kernel, by decide +kernel, by decide⟩

theorem test_witness_DecodebufDeliversTheFrame :
    State.reset.phase.waiting = false ∧ CompleteFrame Config.cfg v3Regions ∧ be32 v3Regions.hdr 0 = FrameType.customReset.code
      ∧ bodyDec Config.cfg State.reset.realign .customReset v3Regions.body
        = .ok { v := .customReset { blob := [0xFF] }, skips := [], warn := 0 } 1 :=
  ⟨rfl, v3_complete _, by decide, by decide⟩

theorem test_witness_DecodebufSplitFailures :
    let c : Cfg := { testCfg with bodyMaxPred := 0, authMaxWords := 0 }
    State.reset.phase.waiting = false ∧ (v3Bytes.take 35).length < 36
      ∧ 36 ≤ (v3Bytes.take 36).length ∧ be32 ((v3Bytes.take 36).set 7 36) 4 ≤ 36 ∧ 36 < be32 (v3Bytes.take 36) 4
      ∧ c.bodyMax < be32 (v3Bytes.set 7 38) 4 - 36 ∧ be32 v3Bytes 4 - 36 ≤ c.bodyMax
      ∧ (v3Bytes.take 44).length < be32 v3Bytes 4 + 8 ∧ be32 v3Bytes 4 + 8 ≤ (v3Bytes.take 45).length
      ∧ c.authMax < pad4 (be32 (v3Bytes.set 44 1) 41) ∧ pad4 (be32 v3Bytes 41) ≤ c.authMax
      ∧ (v3Bytes.take 52).length < be32 v3Bytes 4 + 16 + pad4 (be32 v3Bytes 41) := by decide

/-- The bytes that `ENCODE` of the request V3 gives under any engine. -/
def v3Out (c : Cfg) : Bytes :=
  v3Bytes.take 37 ++ zeros 8 ++ toBe 8 (c.crc64 (v3Bytes.take 37 ++ zeros 16)).toNat

theorem v3_encodes (c : Cfg) : encodeFrame c v3Req = .ok (v3Out c) := by
  refine (encodeFrame_ok_iff c v3Req (v3Out c)).mpr ⟨.customReset { blob := [0xFF] }, [0xFF], v3Bytes.take 36, zeros 8,
    rfl, rfl, rfl, by decide, by decide, by decide, by decide, rfl, ?_⟩
  have := v3_fits c
  simpa [v3Out, v3Bytes, zeros] using this

theorem test_witness_EncodeThenDecodebuf :
    ∃ t : State, State.reset.phase.waiting = false ∧ exec (.encode v3Req) State.reset = .next t ∧ t.txValid = true
      ∧ Memory.load t.txBuf 0 t.txLen = some (v3Out Config.cfg)
      ∧ resolveVariant Config.cfg v3Req = .ok (.customReset { blob := [0xFF] }) ∧ CanonicalVariant (.customReset { blob := [0xFF] })
      ∧ bodyEnc Config.cfg (.customReset { blob := [0xFF] }) = .ok [0xFF] ∧ ([0xFF] : Bytes).length ≤ Config.cfg.bodyMax
      ∧ pad4 v3Req.authValue.length ≤ Config.cfg.authMax := by
  refine ⟨setTx (v3Out Config.cfg) (beginEncode State.reset), rfl, ?_, rfl, Memory.load_ofBytes _, rfl, trivial, rfl,
    (v3_complete Config.cfg).body_fits, (v3_complete Config.cfg).auth_fits⟩
  show Host.Outcome.next (encodeReq Config.cfg v3Req State.reset) = _
  simp only [encodeReq, v3_encodes]

theorem test_witness_WaitStepChangesNothing :
    waitingHeader.phase.waiting = true ∧ needLen waitingHeader = some 36 ∧ waitingHeader.fifo.length < 36 ∧ waitingHeader.inputs = []
      ∧ needLen waitingBody = some 1 ∧ needLen waitingTr1 = some 8 ∧ needLen waitingTr2 = some 8 := by decide

theorem test_witness_CancellationIsCleanOnlyAtTheStart :
    needLen waitingHeader = some 36 ∧ 36 ≤ ({ waitingHeader with fifo := zeros 36 } : State).fifo.length
      ∧ ({ waitingHeader with fifo := zeros 35 } : State).fifo.length < 36
      ∧ needLen waitingBody = some 1 ∧ waitingBody.fifo.length < 1 ∧ (waitingBody.spos - waitingBody.fstart).toNat < 2 ^ 32
      ∧ needLen waitingTr1 = some 8 ∧ needLen waitingTr2 = some 8 := by decide

theorem test_witness_ShortReadIsFatal :
    needLen { waitingHeader with fifo := zeros 36 } = some 36 ∧ 36 ≤ (zeros 36).length ∧ 0 < 36 ∧ 35 < 36 := by decide

theorem test_witness_HeaderRegionSizesTheBody :
    let c : Cfg := { testCfg with bodyMaxPred := 0 }
    waitingHeader.phase = .wHdr ∧ 36 ≤ (v3Bytes.set 7 36).length ∧ be32 (v3Bytes.set 7 36) 4 ≤ 36 ∧ 36 < be32 v3Bytes 4
      ∧ c.bodyMax < be32 (v3Bytes.set 7 38) 4 - 36 ∧ be32 v3Bytes 4 - 36 ≤ c.bodyMax := by decide

theorem test_witness_LaterRegionsCompleteTheFrame :
    let c : Cfg := { testCfg with authMaxWords := 0 }
    Memory.load waitingBody.hdrBuf 0 36 = some v3Regions.hdr ∧ 1 = be32 v3Regions.hdr 4 - 36
      ∧ Memory.load waitingTr1.hdrBuf 0 36 = some v3Regions.hdr ∧ 8 ≤ (zeros 8).length
      ∧ pad4 (be32 (zeros 8) 4) ≤ c.authMax ∧ c.authMax < pad4 (be32 [0, 0, 0, 0, 0, 0, 0, 1] 4)
      ∧ Memory.load waitingTr2.hdrBuf 0 36 = some v3Regions.hdr ∧ Memory.load waitingTr2.tr1Buf 0 8 = some (zeros 8)
      ∧ 8 = pad4 (be32 (zeros 8) 4) + 8 := by decide

theorem test_witness_WholeFrameStreamsInFourPolls :
    let s := { waitingHeader with fifo := v3Regions.bytes ++ [1, 2], inputs := List.replicate 4 (.poll true true none) }
    CompleteFrame Config.cfg v3Regions ∧ s.phase = .wHdr ∧ s.fifo = v3Regions.bytes ++ [1, 2]
      ∧ s.inputs = .poll true true none :: .poll true true none :: .poll true true none :: .poll true true none :: [] :=
  ⟨v3_complete _, rfl, rfl, rfl⟩

theorem test_witness_ReceivePathDeliversTheFrame :
    State.reset.phase.waiting = false ∧ State.reset.desync = false ∧ CompleteFrame Config.cfg v3Regions
      ∧ decodeRegions v3Regions = .ok (FrameType.customReset.instr v3)
      ∧ bodyDec Config.cfg State.reset.realign .customReset v3.body
        = .ok { v := .customReset { blob := [0xFF] }, skips := [], warn := 0 } 1 :=
  ⟨rfl, rfl, v3_complete _, by decide, by decide⟩

/-- A state other than the one after reset that meets the invariant: a frame read that has just started. -/
theorem waitingHeader_inv (c : Cfg) (inputs : List Input) : Inv c { waitingHeader with inputs := inputs } where
  mem_wf := ⟨rfl, rfl, rfl, rfl, rfl⟩
  done_iff := by simp [waitingHeader, State.reset]
  held := by simp [waitingHeader, State.reset]
  reading := rfl
  desync_not_waiting := by simp [waitingHeader, State.reset]
  hdr_held := by simp [waitingHeader, State.reset]
  hdr_legal := by simp [waitingHeader, State.reset]
  decoded_hdr := by simp [waitingHeader, State.reset]
  tag_eq := by simp [waitingHeader, State.reset]
  auth_length := by simp [waitingHeader, State.reset]
  crc_decoded := by simp [waitingHeader, State.reset]
  crc_ok := by simp [waitingHeader, State.reset]
  degraded_iff := by simp [waitingHeader, State.reset]
  cfg_reserved := (by decide : 1#32 &&& 0xFFFFFFFE#32 = 0)
  warn_reserved := (by decide : 0#32 &&& 0xFFFFFFF8#32 = 0)
  cause_legal := .inl rfl
  cause_sub := ⟨iff_of_true rfl rfl, fun _ => rfl⟩
  tx := by simp [waitingHeader, State.reset]
  fifo_bound := by simp [waitingHeader, State.reset]

theorem test_witness_StepKeepsTheInvariant :
    let s : State := { waitingHeader with inputs := [.command (Command.plain 0)] }
    Inv Config.cfg s ∧ Sys2Proof.Machine.step s = .next waitingHeader :=
  ⟨waitingHeader_inv _ _, rfl⟩

theorem test_witness_OnlyInvalidReadsFault :
    Inv Config.cfg { waitingHeader with inputs := [.readResult .hType] } ∧ readable waitingHeader .hType = false :=
  ⟨waitingHeader_inv _ _, rfl⟩

theorem test_witness_DesyncIsSticky :
    let s : State := { State.reset with desync := true, inputs := [.command (Command.plain 1)] }
    s.desync = true ∧ s.phase.waiting = false ∧ (∃ t, Sys2Proof.Machine.step s = .next t) :=
  ⟨rfl, rfl, ⟨_, rfl⟩⟩

theorem test_witness_StepsAnswerNext :
    (∃ t, Sys2Proof.Machine.step { waitingBody with fifo := [9, 8] } = .next t)
      ∧ (∃ t, Sys2Proof.Machine.step { State.reset with stream := [1], inputs := [.arrive 1] } = .next t)
      ∧ (∃ t, Sys2Proof.Machine.step { State.reset with inputs := [.csrWrite 0 2] } = .next t)
      ∧ (∃ t, Sys2Proof.Machine.step { State.reset with inputs := [.command (Command.plain 15)] } = .next t)
      ∧ (∃ t, Sys2Proof.Machine.step { holding .customReset v3 with inputs := [.command (Command.plain 2)] } = .next t)
      ∧ ¬ NextIsCommand [1, 5, 15] { holding .customReset v3 with inputs := [.command (Command.plain 2)] } := by
  refine ⟨⟨_, rfl⟩, ⟨_, rfl⟩, ⟨_, rfl⟩, ⟨_, rfl⟩, ⟨_, rfl⟩, ?_⟩
  rintro ⟨c, rest, h, hc⟩
  cases h
  revert hc
  decide

theorem test_witness_RegisterNumbers :
    let s : State := { State.reset with inputs := [.csrRead 12] }
    s.inputs = .csrRead 12 :: [] ∧ 11 < 12 ∧ s.bodyLen < 2 ^ 32 ∧ s.phase.waiting = false
      ∧ ({ waitingBody with inputs := [.csrWrite 0 1] } : State).inputs = .csrWrite 0 1 :: [] ∧ waitingBody.phase.waiting = true
      ∧ (1 : Nat) ≠ 0 := by decide

theorem test_witness_InvalidRegistersFault :
    State.reset.hdrValid = false ∧ State.reset.decoded = false ∧ State.reset.rawValid = false ∧ State.reset.phase.waiting = false
      ∧ State.reset.txValid = false ∧ State.reset.crcChecked = false ∧ waitingHeader.phase = .wHdr ∧ waitingBody.phase = .wBody
      ∧ waitingTr1.phase = .wTr1 ∧ waitingTr2.phase = .wTr2 ∧ waitingTr2.rawValid = false
      ∧ ({ State.reset with inputs := [.readResult .hSeries] } : State).inputs = .readResult .hSeries :: [] := by decide

theorem test_witness_ValidRegistersAreDelivered :
    let s : State := { holding .customReset v3 with
      hdrValid := true, decoded := true, v := .data dataRecord, txBuf := Memory.ofBytes [9], txLen := 1, txValid := true
      inputs := [.readResult (.endTime 0)] }
    s.inputs = .readResult (.endTime 0) :: [] ∧ s.hdrValid = true ∧ s.decoded = true ∧ s.rawValid = true ∧ s.txValid = true
      ∧ s.v = .data dataRecord ∧ dataRecord.subframes[0]? = some sfRecord ∧ dataRecord.subframes[1]? = none
      ∧ Memory.load s.hdrBuf 0 36 = some v3Regions.hdr ∧ Memory.load s.bodyBuf 0 s.bodyLen = some v3Regions.body
      ∧ Memory.load s.tr1Buf 0 8 = some v3Regions.tr1 ∧ Memory.load s.tr2Buf 0 s.tr2Len = some v3Regions.tr2
      ∧ Memory.load s.txBuf 0 s.txLen = some [9] ∧ waitingTr2.phase = .wTr2
      ∧ Memory.load waitingTr2.bodyBuf 0 waitingTr2.bodyLen = some [0xFF] := by decide

theorem test_witness_RateAndEndTime :
    let ts : Vector Byte 20 := ⟨stamp.toArray, by decide⟩
    sfRecord.timeStamp = ts.toList ∧ testCfg.tsDecode ts = some 0 ∧ sfRecord.subframeTimeLengthMs ≠ 0 ∧ sfRecord.sampleCount ≠ 0
      ∧ ({ sfRecord with subframeTimeLengthMs := 0 } : ChannelSubframe).subframeTimeLengthMs = 0
      ∧ ({ testCfg with tsDecode := fun _ => none } : Cfg).tsDecode ts = none :=
  ⟨rfl, rfl, by decide, by decide, rfl, rfl⟩

theorem test_witness_StepRunsTheDecodedInstruction :
    let s : State := { holding .customReset v3 with inputs := [.command (Command.plain 2)] }
    s.inputs = .command (Command.plain 2) :: [] ∧ decodeCommand (Command.plain 2) = .decode ∧ s.rawValid = true
      ∧ heldRegions s = some v3Regions ∧ decodeRegions v3Regions = .ok (.customreset v3)
      ∧ decodeCommand (Command.plain 3) ≠ .decode ∧ State.reset.rawValid = false := by decide

theorem test_witness_StepMakesTheOtherMoves :
    let s : State := { State.reset with inputs := [.arrive 0] }
    s.inputs = .arrive 0 :: [] ∧ s.fifo.length + 0 ≤ Config.cfg.fifoDepth ∧ s.phase.waiting = false
      ∧ State.reset.inputs = [] ∧ ({ waitingHeader with inputs := [.poll true false none] } : State).inputs = .poll true false none :: [] :=
  ⟨rfl, Nat.zero_le _, rfl, rfl, rfl⟩

theorem test_witness_ErrorEntry : (4 : Nat) < 2 ^ 32 := by decide

end Sys2Proof.Tests
end

/-! SUPPORT. `pad4` and `padlen` (R13), and the integers of the aligner read back from any surroundings (R12, R117). -/

namespace Sys2Proof

/-! ## `pad4` and `padlen` -/

theorem four_dvd_pad4 (k : Nat) : 4 ∣ pad4 k := Dvd.intro _ rfl

theorem le_pad4 (k : Nat) : k ≤ pad4 k := by unfold pad4; omega

theorem pad4_le_of_four_dvd {k m : Nat} (hdvd : 4 ∣ m) (hle : k ≤ m) : pad4 k ≤ m := by unfold pad4; omega

theorem padlen_lt_four (k : Nat) : padlen k < 4 := by unfold padlen pad4; omega

@[simp] theorem add_padlen (k : Nat) : k + padlen k = pad4 k := Nat.add_sub_cancel' (le_pad4 k)

theorem putVar_length {v out : Bytes} (h : putVar v = .ok out) : out.length = 4 + pad4 v.length := by
  obtain ⟨-, rfl⟩ := (putVar_ok_iff v out).mp h
  simp

/-! ## Integers -/

/-- A slice at the place where a string was put is that string. -/
theorem slice_append_middle (pre out suf : Bytes) : slice (pre ++ out ++ suf) pre.length out.length = out := by
  simp [slice]

theorem getUInt_append_toBe {n v : Nat} (pre suf : Bytes) (hv : v < 256 ^ n) :
    getUInt n (pre ++ toBe n v ++ suf) pre.length = .ok v (pre.length + n) := by
  have hslice : slice (pre ++ toBe n v ++ suf) pre.length n = toBe n v := by
    simpa using slice_append_middle pre (toBe n v) suf
  refine (getUInt_ok_iff ..).mpr ⟨by simp, ?_, rfl⟩
  rw [hslice, beNat_toBe, Nat.mod_eq_of_lt hv]

theorem putUInt_of_lt {n v : Nat} (hv : v < 256 ^ n) : putUInt n v = .ok (toBe n v) := if_pos hv

theorem putUInt_of_ge {n v : Nat} (hv : 256 ^ n ≤ v) : putUInt n v = .error .range := if_neg (Nat.not_lt.mpr hv)

theorem putI64_of_mem {v : Int} (hlo : -(2 ^ 63) ≤ v) (hhi : v < 2 ^ 63) :
    putI64 v = .ok (toBe 8 (v % 2 ^ 64).toNat) := if_pos ⟨hlo, hhi⟩

theorem putI64_of_not_mem {v : Int} (hv : v < -(2 ^ 63) ∨ 2 ^ 63 ≤ v) : putI64 v = .error .range :=
  if_neg (by omega)

/-- `sext_64` undoes the reduction modulo `2^64` that `PUTI64` makes (R12). -/
theorem sext64_toNat_emod {v : Int} (hlo : -(2 ^ 63) ≤ v) (hhi : v < 2 ^ 63) : sext64 (v % 2 ^ 64).toNat = v := by
  unfold sext64
  split <;> omega

theorem getI64_append_toBe {v : Int} (pre suf : Bytes) (hlo : -(2 ^ 63) ≤ v) (hhi : v < 2 ^ 63) :
    getI64 (pre ++ toBe 8 (v % 2 ^ 64).toNat ++ suf) pre.length = .ok v (pre.length + 8) := by
  have hlt : (v % 2 ^ 64).toNat < 256 ^ 8 := by omega
  simp only [getI64, getU64, getUInt_append_toBe pre suf hlt, Res.andThen, sext64_toNat_emod hlo hhi]

end Sys2Proof

namespace Sys2Proof.Proofs

/-- Settles O6, by the arithmetic of rounding up; on the wire a variable field is prefix, value and padding. -/
theorem pad4IsTheLeastMultiple : Obligations.Pad4IsTheLeastMultiple := by
  refine ⟨fun k => ⟨four_dvd_pad4 k, le_pad4 k, fun _ => pad4_le_of_four_dvd⟩, fun k => ⟨rfl, ?_⟩,
    fun _ _ => putVar_length⟩
  have hlt := padlen_lt_four k
  simp only [List.mem_cons, List.not_mem_nil]
  omega

/-- Settles O8: what the aligner writes is a slice of the surroundings, whose big-endian view is the value again. -/
theorem integersRoundTrip : Obligations.IntegersRoundTrip := by
  refine ⟨fun n v pre suf hv => ?_, fun _ _ => putUInt_of_ge, fun v pre suf hlo hhi => ?_, fun _ => putI64_of_not_mem⟩
  · exact ⟨_, putUInt_of_lt hv, toBe_length n v, getUInt_append_toBe pre suf hv⟩
  · exact ⟨_, putI64_of_mem hlo hhi, toBe_length 8 _, getI64_append_toBe pre suf hlo hhi⟩

end Sys2Proof.Proofs

/-! SUPPORT. The opcode map read backwards, what a held frame's instruction is, and what a frame instruction and `DECODE`
do with it (R3, R83, R178; log 5). -/

namespace Sys2Proof

/-- The type map and the codes are inverse to each other (R83). -/
theorem FrameType.ofCode_eq_some_iff (n : Nat) (t : FrameType) : FrameType.ofCode n = some t ↔ n = t.code := by
  constructor
  · intro h
    simp only [FrameType.ofCode, ite_eq_iff', Option.some.injEq] at h
    grind [FrameType.code]
  · rintro rfl
    cases t <;> rfl

theorem be32_lt (b : Bytes) (o : Nat) : be32 b o < 2 ^ 32 := by
  have hlen : (slice b o 4).length ≤ 4 := by simp [slice]
  calc be32 b o < 256 ^ (slice b o 4).length := beNat_lt _
    _ ≤ 256 ^ 4 := Nat.pow_le_pow_right (by decide) hlen
    _ = 2 ^ 32 := by decide

theorem be64_lt (b : Bytes) (o : Nat) : be64 b o < 2 ^ 64 := by
  have hlen : (slice b o 8).length ≤ 8 := by simp [slice]
  calc be64 b o < 256 ^ (slice b o 8).length := beNat_lt _
    _ ≤ 256 ^ 8 := Nat.pow_le_pow_right (by decide) hlen
    _ = 2 ^ 64 := by decide

/-- A 32-bit register holds a 4-byte field whole. -/
@[simp] theorem be32_mod (b : Bytes) (o : Nat) : be32 b o % 4294967296 = be32 b o := Nat.mod_eq_of_lt (be32_lt b o)

/-- A 64-bit register holds an 8-byte field whole. -/
@[simp] theorem be64_mod (b : Bytes) (o : Nat) : be64 b o % 18446744073709551616 = be64 b o :=
  Nat.mod_eq_of_lt (be64_lt b o)

theorem decodeRegions_ok_iff (r : Regions) (i : Instr) : decodeRegions r = .ok i ↔
    r.hdr.length = hlen ∧ r.tr1.length = tr1Len ∧ r.tr2.length = pad4 (be32 r.tr1 4) + ckLen
      ∧ ∃ t, FrameType.ofCode (be32 r.hdr 0) = some t ∧ i = t.instr (frameOf r) := by
  unfold decodeRegions
  split
  · rename_i hlengths
    cases FrameType.ofCode (be32 r.hdr 0) <;> simp [hlengths, eq_comm]
  · rename_i hlengths
    simp only [reduceCtorEq, false_iff]
    rintro ⟨hh, h1, h2, -⟩
    exact hlengths ⟨hh, h1, h2⟩

end Sys2Proof

namespace Sys2Proof.Machine

/-! ## The held frame as an instruction -/

theorem heldInstr_eq_some_iff (s : State) (i : Instr) : heldInstr s = some i ↔
    s.rawValid = true ∧ ∃ r, heldRegions s = some r ∧ decodeRegions r = .ok i := by
  unfold heldInstr
  cases s.rawValid with
  | false => simp
  | true =>
    cases heldRegions s with
    | none => simp
    | some r => cases h : decodeRegions r <;> simp [h]

theorem fetchCommand_of_ne_decode {c : Command} (s : State) (h : decodeCommand c ≠ .decode) :
    fetchCommand c s = decodeCommand c := if_neg h

theorem fetchCommand_of_decode {c : Command} (s : State) (h : decodeCommand c = .decode) :
    fetchCommand c s = (heldInstr s).getD .decode := if_pos h

/-- A pending command is taken off the port and its instruction run (R38). -/
theorem step_command {s : State} {c : Command} {rest : List Input} (h : s.inputs = .command c :: rest) :
    step s = exec (fetchCommand c s) { s with inputs := rest } := by
  simp only [step, h]

/-! ## `DECODE` on a held frame -/

/-- Every frame instruction is `DECODE` run on its operands with the body decoder of its type (R177, R178). -/
theorem exec_frame (t : FrameType) (f : Frame) (s : State) :
    exec (t.instr f) s = .next (runFrame Config.cfg t (bodyDec Config.cfg s.realign t f.body) f s) := by
  cases t <;> rfl

theorem exec_decode_of_held {s : State} {r : Regions} (hraw : s.rawValid = true) (hheld : heldRegions s = some r) :
    exec .decode s = .next (decodeRegionsHeld Config.cfg r (beginDecode s)) := by
  simp only [exec, execDecode, hraw, hheld, if_true]

/-- The header decoder and the header of the instruction agree (R161). -/
theorem frameHeader_frameOf {r : Regions} {t : FrameType} (hlength : r.hdr.length = hlen)
    (ht : FrameType.ofCode (be32 r.hdr 0) = some t) : frameHeader t (frameOf r) = hdrDec r.hdr := by
  rw [hdrDec_eq r.hdr hlength, (FrameType.ofCode_eq_some_iff _ t).mp ht]
  simp [frameHeader, frameOf]

/-- The trailer decoder and the trailer of the instruction agree (R166). -/
theorem frameTrailer_frameOf {r : Regions} (toff : BitVec 32) (h1 : r.tr1.length = tr1Len)
    (h2 : r.tr2.length = pad4 (be32 r.tr1 4) + ckLen) : frameTrailer (frameOf r) toff = trlDec toff r.tr1 r.tr2 := by
  rw [trlDec_eq toff r.tr1 r.tr2 h1 h2.ge]
  have hauth : (slice r.tr2 0 (pad4 (be32 r.tr1 4))).length = pad4 (be32 r.tr1 4) := slice_length _ _ _ (by omega)
  have hslice : slice (slice r.tr2 0 (pad4 (be32 r.tr1 4))) 0 (pad4 (be32 r.tr1 4)) = slice r.tr2 0 (pad4 (be32 r.tr1 4)) := by
    simp [slice]
  simp [frameTrailer, frameOf, hauth, hslice]

/-- The type in a decoded header is the one its type word names. -/
theorem ty_of_hdrDec_ok {b : Bytes} {h : Header} {t : FrameType} (hlength : b.length = hlen)
    (ht : FrameType.ofCode (be32 b 0) = some t) (hok : hdrDec b = .ok h) : h.ty = t := by
  rw [hdrDec_eq b hlength, headerChecks_ok_iff] at hok
  obtain ⟨t', ht', -, rfl⟩ := hok
  exact Option.some.inj (ht'.symm.trans ht)

/-- `runDecode` looks at the body decoder of the header's own type only. -/
theorem runDecode_body_congr (c : Cfg) (header : Except Failure Header) {body body' : FrameType → Res Body} (len : Nat)
    (trailer : BitVec 32 → Except Failure Trailer) (s : State) (hbody : ∀ h, header = .ok h → body h.ty = body' h.ty) :
    runDecode c header body len trailer s = runDecode c header body' len trailer s := by
  cases header with
  | error e => rfl
  | ok h => simp only [runDecode, hbody h rfl]

/-- `DECODE` over regions that are a frame of type `t` does what the frame's instruction does (R178; log 5). -/
theorem decodeRegionsHeld_eq_runFrame (c : Cfg) {r : Regions} {t : FrameType} (s : State) (hlength : r.hdr.length = hlen)
    (h1 : r.tr1.length = tr1Len) (h2 : r.tr2.length = pad4 (be32 r.tr1 4) + ckLen)
    (ht : FrameType.ofCode (be32 r.hdr 0) = some t) :
    decodeRegionsHeld c r (beginDecode s) = runFrame c t (bodyDec c s.realign t r.body) (frameOf r) s := by
  have htrailer : frameTrailer (frameOf r) = fun toff => trlDec toff r.tr1 r.tr2 :=
    funext fun toff => frameTrailer_frameOf toff h1 h2
  rw [runFrame, frameHeader_frameOf hlength ht, htrailer]
  refine runDecode_body_congr c _ _ _ _ fun h hok => ?_
  rw [ty_of_hdrDec_ok hlength ht hok]
  rfl

end Sys2Proof.Machine

namespace Sys2Proof.Proofs

open Sys2Proof.Machine

/-- Settles O29: header, trailer and body decoder of the held regions are those of the instruction they decode to. -/
theorem decodeRunsTheHeldFrame : Obligations.DecodeRunsTheHeldFrame := by
  intro s i hi
  obtain ⟨hraw, r, hheld, hdec⟩ := (heldInstr_eq_some_iff s i).mp hi
  obtain ⟨hlength, h1, h2, t, ht, rfl⟩ := (decodeRegions_ok_iff r i).mp hdec
  rw [exec_decode_of_held hraw hheld, exec_frame, decodeRegionsHeld_eq_runFrame Config.cfg s hlength h1 h2 ht]
  rfl

/-- Settles O59: the fetch looks at the held frame for `DECODE` alone. -/
theorem stepRunsTheDecodedInstruction : Obligations.StepRunsTheDecodedInstruction := by
  intro s c rest hs
  rw [step_command hs]
  refine ⟨fun hne => ?_, fun r i hdecode hraw hheld hok => ?_, fun hdecode hnone => ?_⟩
  · rw [fetchCommand_of_ne_decode s hne]
  · have hsome : heldInstr s = some i := (heldInstr_eq_some_iff s i).mpr ⟨hraw, r, hheld, hok⟩
    rw [fetchCommand_of_decode s hdecode, hsome, Option.getD_some]
  · have hempty : heldInstr s = none := by
      refine Option.eq_none_iff_forall_ne_some.mpr fun i hi => ?_
      obtain ⟨hraw, r, hheld, hok⟩ := (heldInstr_eq_some_iff s i).mp hi
      obtain hinvalid | ⟨r', hheld', hreject⟩ := hnone
      · simp [hraw] at hinvalid
      · obtain rfl : r = r' := Option.some.inj (hheld.symm.trans hheld')
        exact hreject i hok
    rw [fetchCommand_of_decode s hdecode, hempty, Option.getD_none]

end Sys2Proof.Proofs

/-! SUPPORT. The input of the checksum and what `VERIFY` compares (R170, R172). -/

namespace Sys2Proof.Machine

/-- The bytes before the checksum go in as they are; what is in the last 8 does not matter (R170). -/
theorem ckin_append (pre tail : Bytes) (h : ckLen ≤ tail.length) :
    ckin (pre ++ tail) = pre ++ tail.take (tail.length - ckLen) ++ zeros ckLen := by
  rw [ckin, List.length_append, Nat.add_sub_assoc h, List.take_length_add_append]

theorem ckin_congr {raw raw' : Bytes} (hlength : raw.length = raw'.length)
    (htake : raw.take (raw.length - 8) = raw'.take (raw.length - 8)) : ckin raw = ckin raw' := by
  rw [ckin, ckin, ckLen, htake, hlength]

theorem checkCrc_crcOk_iff (c : Cfg) (raw : Bytes) (s : State) :
    (checkCrc c raw s).crcOk = true ↔ c.crc64 (ckin raw) = s.tCksum := by simp

theorem exec_verify_of_held {s : State} {r : Regions} (hraw : s.rawValid = true) (hdec : s.decoded = true)
    (hheld : heldRegions s = some r) : exec .verify s = .next (checkCrc Config.cfg r.bytes (clearError s)) := by
  simp only [exec, execVerify, hraw, hdec, hheld, Bool.and_self, if_true]

/-- With a sensitive engine two frames that differ in one byte before the checksum hash differently (R9). -/
theorem crc64_ckin_ne {c : Cfg} (hsens : Claims.SingleByteSensitive c.crc64) (pre : Bytes) {suf : Bytes} {x y : Byte}
    (hxy : x ≠ y) (hsuf : ckLen ≤ suf.length) :
    c.crc64 (ckin (pre ++ x :: suf)) ≠ c.crc64 (ckin (pre ++ y :: suf)) := by
  have hckin (z : Byte) : ckin (pre ++ z :: suf) = pre ++ z :: (suf.take (suf.length - ckLen) ++ zeros ckLen) := by
    rw [List.append_cons, ckin_append _ _ hsuf]
    simp
  rw [hckin, hckin]
  exact hsens _ _ _ _ hxy

end Sys2Proof.Machine

namespace Sys2Proof.Proofs

open Sys2Proof.Machine

/-- Settles O32: one changed byte gives two checksums and one stored value, equal bytes one checksum and two stored values. -/
theorem checksumFindsAChange : Obligations.ChecksumFindsAChange := by
  refine ⟨fun s r hraw hdec hheld => ⟨_, exec_verify_of_held hraw hdec hheld, rfl⟩, ?_⟩
  intro c hsens s s' raw raw' hchange hok
  rw [checkCrc_crcOk_iff] at hok
  rw [← Bool.not_eq_true, checkCrc_crcOk_iff]
  intro hok'
  obtain ⟨pre, suf, x, y, hxy, hsuf, rfl, rfl, hstored⟩ | ⟨hlength, htake, hstored⟩ := hchange
  · exact crc64_ckin_ne hsens pre hxy hsuf (by rw [hok, hok', hstored])
  · exact hstored (by rw [← hok, ← hok', ckin_congr hlength htake])

end Sys2Proof.Proofs

/-! SUPPORT. Where a step reads a buffer, the invariant says that its bytes have values (R14, R25, R142). -/

namespace Sys2Proof.Machine

/-! ## The buffers that a frame read has filled -/

theorem ReadProgress.hdrBuf {c : Cfg} {s : State} (h : ReadProgress c s)
    (hp : s.phase = .wBody ∨ s.phase = .wTr1 ∨ s.phase = .wTr2) : ∃ d, Memory.load s.hdrBuf 0 hlen = some d := by
  obtain hp | hp | hp := hp <;> simp only [ReadProgress, hp] at h
  · obtain ⟨d, hd, -⟩ := h; exact ⟨d, hd⟩
  · obtain ⟨d, -, hd, -⟩ := h; exact ⟨d, hd⟩
  · obtain ⟨d, -, -, hd, -⟩ := h; exact ⟨d, hd⟩

theorem ReadProgress.bodyBuf {c : Cfg} {s : State} (h : ReadProgress c s)
    (hp : s.phase = .wTr1 ∨ s.phase = .wTr2) : ∃ d, Memory.load s.bodyBuf 0 s.bodyLen = some d := by
  obtain hp | hp := hp <;> simp only [ReadProgress, hp] at h
  · obtain ⟨-, d, -, hd, -⟩ := h; exact ⟨d, hd⟩
  · obtain ⟨-, d, -, -, hd, -⟩ := h; exact ⟨d, hd⟩

theorem ReadProgress.tr1Buf {c : Cfg} {s : State} (h : ReadProgress c s) (hp : s.phase = .wTr2) :
    ∃ d, Memory.load s.tr1Buf 0 tr1Len = some d := by
  simp only [ReadProgress, hp] at h
  obtain ⟨-, -, d, -, -, -, -, -, hd, -⟩ := h
  exact ⟨d, hd⟩

/-! ## The poll step -/

/-- The stored header gives the trailer offset (R142). -/
theorem storedToff_of_load {s : State} {d : Bytes} (h : Memory.load s.hdrBuf 0 hlen = some d) :
    storedToff s = some (be32 d 4) := by
  have hword := Memory.load_slice s.hdrBuf 0 hlen d h 4 4 (by decide)
  rw [Nat.zero_add] at hword
  rw [storedToff, hword]
  rfl

/-- The stored trailer segment 1 gives the length of segment 2 (R142). -/
theorem needLen_wTr2_of_load {s : State} {d : Bytes} (hp : s.phase = .wTr2) (h : Memory.load s.tr1Buf 0 tr1Len = some d) :
    needLen s = some (pad4 (be32 d 4) + ckLen) := by
  have hword := Memory.load_slice s.tr1Buf 0 tr1Len d h 4 4 (by decide)
  rw [Nat.zero_add] at hword
  simp only [needLen, hp, hword]
  rfl

theorem exists_needLen {c : Cfg} {s : State} (h : ReadProgress c s) (hw : s.phase.waiting = true) :
    ∃ n, needLen s = some n := by
  cases hp : s.phase with
  | idle => simp [hp, Phase.waiting] at hw
  | done => simp [hp, Phase.waiting] at hw
  | wHdr => exact ⟨hlen, by simp only [needLen, hp]⟩
  | wTr1 => exact ⟨tr1Len, by simp only [needLen, hp]⟩
  | wBody =>
    obtain ⟨d, hd⟩ := h.hdrBuf (.inl hp)
    exact ⟨be32 d 4 - hlen, by simp only [needLen, hp, storedToff_of_load hd, Option.map_some]⟩
  | wTr2 =>
    obtain ⟨d, hd⟩ := h.tr1Buf hp
    exact ⟨_, needLen_wTr2_of_load hp hd⟩

/-- `store_region` reads a buffer in `W_TR1` alone. -/
theorem exists_storeRegion_next (c : Cfg) (d : Bytes) {s : State}
    (h : s.phase = .wTr1 → ∃ b, Memory.load s.hdrBuf 0 hlen = some b) : ∃ t, storeRegion c d s = .next t := by
  unfold storeRegion
  cases hp : s.phase with
  | wTr1 =>
    obtain ⟨b, hb⟩ := h hp
    exact ⟨storeTr1 c (be32 b 4) d s, by simp only [storedToff_of_load hb]⟩
  | _ => exact ⟨_, rfl⟩

theorem exists_pollStep_next {c : Cfg} {s : State} (h : ReadProgress c s) (halt intr : Bool) (short : Option Nat) :
    ∃ t, pollStep c halt intr short s = .next t := by
  unfold pollStep
  by_cases hw : s.phase.waiting = true
  · obtain ⟨n, hn⟩ := exists_needLen h hw
    simp only [hw, hn, if_true, pollRead]
    split_ifs
    · exact ⟨_, rfl⟩
    · exact exists_storeRegion_next c _ fun hp => h.hdrBuf (.inr (.inl hp))
    · exact ⟨_, rfl⟩
  · exact ⟨s, if_neg hw⟩

/-! ## The commands -/

/-- Only `DECODE` and `VERIFY` read the region buffers, and only when a frame is held (R40). -/
theorem exists_exec_next (i : Instr) {s : State} (h : s.rawValid = true → ∃ r, heldRegions s = some r) :
    ∃ t, exec i s = .next t := by
  cases i with
  | rdframe => simp only [exec, execRdframe]; split_ifs <;> exact ⟨_, rfl⟩
  | encode req => simp only [exec, execEncode]; split_ifs <;> exact ⟨_, rfl⟩
  | decodebuf buf => simp only [exec, execDecodebuf]; split_ifs <;> exact ⟨_, rfl⟩
  | decode =>
    by_cases hraw : s.rawValid = true
    · obtain ⟨r, hr⟩ := h hraw
      exact ⟨_, exec_decode_of_held hraw hr⟩
    · exact ⟨_, if_neg hraw⟩
  | verify =>
    by_cases hready : (s.rawValid && s.decoded) = true
    · obtain ⟨hraw, hdec⟩ := Bool.and_eq_true_iff.mp hready
      obtain ⟨r, hr⟩ := h hraw
      exact ⟨_, exec_verify_of_held hraw hdec hr⟩
    · exact ⟨_, if_neg hready⟩
  | _ => exact ⟨_, rfl⟩

/-! ## Host reads -/

theorem bufferValue_of_load {m : Memory} {n : Nat} {b : Bytes} (h : Memory.load m 0 n = some b) :
    bufferValue m n = some (.bytes b) := by
  rw [bufferValue, h]
  rfl

/-- The four regions of a held frame have values up to their lengths. -/
theorem Inv.load_of_rawValid {c : Cfg} {s : State} (h : Inv c s) (hraw : s.rawValid = true) :
    ∃ r : Regions, Memory.load s.hdrBuf 0 hlen = some r.hdr ∧ Memory.load s.bodyBuf 0 s.bodyLen = some r.body
      ∧ Memory.load s.tr1Buf 0 tr1Len = some r.tr1 ∧ Memory.load s.tr2Buf 0 s.tr2Len = some r.tr2 := by
  obtain ⟨r, hr, -⟩ := h.held hraw
  exact ⟨r, (heldRegions_eq_some_iff s r).mp hr⟩

/-- A register that the host may read has a value (R44). -/
theorem Inv.exists_resultValue {c : Cfg} {s : State} (h : Inv c s) {x : ResultReg} (hx : readable s x = true) :
    ∃ v, resultValue c s x = some v := by
  cases x with
  | hdrBuf =>
    simp only [readable, Bool.or_eq_true, beq_iff_eq, or_assoc] at hx
    obtain hraw | hp := hx
    · obtain ⟨r, hr, -⟩ := h.load_of_rawValid hraw
      exact ⟨_, bufferValue_of_load hr⟩
    · obtain ⟨b, hb⟩ := h.reading.hdrBuf hp
      exact ⟨_, bufferValue_of_load hb⟩
  | bodyBuf =>
    simp only [readable, Bool.or_eq_true, beq_iff_eq, or_assoc] at hx
    obtain hraw | hp := hx
    · obtain ⟨r, -, hr, -⟩ := h.load_of_rawValid hraw
      exact ⟨_, bufferValue_of_load hr⟩
    · obtain ⟨b, hb⟩ := h.reading.bodyBuf hp
      exact ⟨_, bufferValue_of_load hb⟩
  | tr1Buf =>
    simp only [readable, Bool.or_eq_true, beq_iff_eq] at hx
    obtain hraw | hp := hx
    · obtain ⟨r, -, -, hr, -⟩ := h.load_of_rawValid hraw
      exact ⟨_, bufferValue_of_load hr⟩
    · obtain ⟨b, hb⟩ := h.reading.tr1Buf hp
      exact ⟨_, bufferValue_of_load hb⟩
  | tr2Buf =>
    obtain ⟨r, -, -, -, hr⟩ := h.load_of_rawValid hx
    exact ⟨_, bufferValue_of_load hr⟩
  | txBuf =>
    obtain ⟨-, -, b, hb⟩ := h.tx hx
    exact ⟨_, bufferValue_of_load hb⟩
  | _ => exact ⟨_, rfl⟩

theorem readResult_of_not_readable (c : Cfg) {x : ResultReg} {s : State} (hx : readable s x = false) :
    readResult c x s = .fault (.invalidRead x) := by
  simp [readResult, hx]

theorem readResult_of_value {c : Cfg} {x : ResultReg} {s : State} {v : HostValue} (hx : readable s x = true)
    (hv : resultValue c s x = some v) : readResult c x s = .next { s with result := v } := by
  simp [readResult, hx, hv]

/-- The invariant does not speak about the moves still to come. -/
theorem Inv.with_inputs {c : Cfg} {s : State} (h : Inv c s) (rest : List Input) : Inv c { s with inputs := rest } :=
  { h with }

end Sys2Proof.Machine

namespace Sys2Proof.Proofs

open Sys2Proof.Machine

/-- Settles O48, move by move: under the invariant a poll step, a command and a valid host read find every byte they read. -/
theorem onlyInvalidReadsFault : Obligations.OnlyInvalidReadsFault := by
  intro s hinv
  cases hs : s.inputs with
  | nil =>
    refine .inl ?_
    simp only [step, hs]
    exact exists_pollStep_next hinv.reading false false none
  | cons move rest =>
    have hinv' : Inv Config.cfg { s with inputs := rest } := hinv.with_inputs rest
    cases move with
    | command c =>
      refine .inl ?_
      rw [step_command hs]
      refine exists_exec_next _ fun hraw => ?_
      obtain ⟨r, hr, -⟩ := hinv'.held hraw
      exact ⟨r, hr⟩
    | poll halt intr short =>
      refine .inl ?_
      simp only [step, hs]
      exact exists_pollStep_next hinv'.reading halt intr short
    | arrive n => exact .inl ⟨_, by simp only [step, hs]; rfl⟩
    | csrRead n => exact .inl ⟨_, by simp only [step, hs]; rfl⟩
    | csrWrite n v => exact .inl ⟨_, by simp only [step, hs]; rfl⟩
    | readResult x =>
      have hstep : step s = readResult Config.cfg x { s with inputs := rest } := by simp only [step, hs]
      cases hx : readable s x with
      | false => exact .inr ⟨x, rest, rfl, hx, hstep.trans (readResult_of_not_readable _ hx)⟩
      | true =>
        obtain ⟨v, hv⟩ := hinv'.exists_resultValue hx
        exact .inl ⟨_, hstep.trans (readResult_of_value hx hv)⟩

end Sys2Proof.Proofs

/-! SUPPORT. The regions of a frame read back field by field, and the decoder on what the encoder writes (R26, R27, R81,
R82, R83, R89). -/

namespace Sys2Proof

/-! ## Strings -/

/-- A slice at the place where a string stands is that string. -/
theorem slice_of_eq_append {b pre out suf : Bytes} {o n : Nat} (hb : b = pre ++ out ++ suf) (ho : pre.length = o)
    (hn : out.length = n) : slice b o n = out := by
  subst hb ho hn
  exact slice_append_middle pre out suf

theorem be32_of_slice {b : Bytes} {o : Nat} {x : BitVec 32} (h : slice b o 4 = toBe 4 x.toNat) : be32 b o = x.toNat := by
  rw [be32, h, beNat_toBe]
  exact Nat.mod_eq_of_lt x.isLt

theorem be64_of_slice {b : Bytes} {o : Nat} {x : BitVec 64} (h : slice b o 8 = toBe 8 x.toNat) : be64 b o = x.toNat := by
  rw [be64, h, beNat_toBe]
  exact Nat.mod_eq_of_lt x.isLt

/-- Padding with `0x00` is what the right-strip takes off again, where the string itself does not end in `0x00` (R126, R127). -/
theorem rstrip_append_zeros {x : Bytes} (k : Nat) (hlast : x.getLast? ≠ some 0) : rstrip (x ++ zeros k) = x := by
  have hdrop : x.reverse.dropWhile (fun y => y == 0) = x.reverse := by
    rw [← List.head?_reverse] at hlast
    cases hx : x.reverse with
    | nil => rfl
    | cons y ys =>
      rw [hx] at hlast
      exact List.dropWhile_cons_of_neg (by simpa using hlast)
  have hzeros : (zeros k).dropWhile (fun y => y == 0) = [] := by simp [zeros]
  rw [rstrip, List.reverse_append, show (zeros k).reverse = zeros k from List.reverse_replicate,
    List.dropWhile_append, hzeros, if_pos List.isEmpty_nil, hdrop, List.reverse_reverse]

theorem nameOk_iff (x : Bytes) : nameOk x = true ↔ x.length ≤ 8 ∧ x.getLast? ≠ some 0 := by
  simp [nameOk]

theorem rstrip_padTo_of_nameOk {x : Bytes} (h : nameOk x = true) : rstrip (padTo 8 x) = x :=
  rstrip_append_zeros _ ((nameOk_iff x).mp h).2

/-! ## The regions of a frame -/

namespace Frame

theorem wellFormed_iff (f : Frame) : f.wellFormed = true ↔
    f.offsetOk = true ∧ f.bodyOk = true ∧ nameOk f.creator = true ∧ nameOk f.destination = true ∧ f.authOk = true := by
  simp only [wellFormed, Bool.and_eq_true, and_assoc]

theorem be32_hdr_toff (t : FrameType) (f : Frame) : be32 (f.regions t).hdr 4 = f.trailerOffset.toNat :=
  be32_of_slice (slice_of_eq_append (pre := toBe 4 t.code)
    (suf := padTo 8 f.creator ++ padTo 8 f.destination ++ toBe 8 f.sequence.toNat ++ toBe 4 f.series.toNat)
    (by simp [regions]) (by simp) (by simp))

theorem slice_hdr_creator (t : FrameType) {f : Frame} (hc : f.creator.length ≤ 8) :
    slice (f.regions t).hdr 8 8 = padTo 8 f.creator :=
  slice_of_eq_append (pre := toBe 4 t.code ++ toBe 4 f.trailerOffset.toNat)
    (suf := padTo 8 f.destination ++ toBe 8 f.sequence.toNat ++ toBe 4 f.series.toNat)
    (by simp [regions]) (by simp) (padTo_length 8 _ hc)

theorem slice_hdr_destination (t : FrameType) {f : Frame} (hc : f.creator.length ≤ 8) (hd : f.destination.length ≤ 8) :
    slice (f.regions t).hdr 16 8 = padTo 8 f.destination :=
  slice_of_eq_append (pre := toBe 4 t.code ++ toBe 4 f.trailerOffset.toNat ++ padTo 8 f.creator)
    (suf := toBe 8 f.sequence.toNat ++ toBe 4 f.series.toNat)
    (by simp [regions]) (by simp [padTo_length 8 _ hc]) (padTo_length 8 _ hd)

theorem be64_hdr_sequence (t : FrameType) {f : Frame} (hc : f.creator.length ≤ 8) (hd : f.destination.length ≤ 8) :
    be64 (f.regions t).hdr 24 = f.sequence.toNat :=
  be64_of_slice (slice_of_eq_append
    (pre := toBe 4 t.code ++ toBe 4 f.trailerOffset.toNat ++ padTo 8 f.creator ++ padTo 8 f.destination)
    (suf := toBe 4 f.series.toNat)
    (by simp [regions]) (by simp [padTo_length 8 _ hc, padTo_length 8 _ hd]) (by simp))

theorem be32_hdr_series (t : FrameType) {f : Frame} (hc : f.creator.length ≤ 8) (hd : f.destination.length ≤ 8) :
    be32 (f.regions t).hdr 32 = f.series.toNat :=
  be32_of_slice (slice_of_eq_append
    (pre := toBe 4 t.code ++ toBe 4 f.trailerOffset.toNat ++ padTo 8 f.creator ++ padTo 8 f.destination
      ++ toBe 8 f.sequence.toNat)
    (suf := []) (by simp [regions]) (by simp [padTo_length 8 _ hc, padTo_length 8 _ hd]) (by simp))

theorem hdr_length (t : FrameType) {f : Frame} (hc : f.creator.length ≤ 8) (hd : f.destination.length ≤ 8) :
    (f.regions t).hdr.length = hlen := by
  simp [regions, padTo_length 8 _ hc, padTo_length 8 _ hd, hlen]

theorem be32_tr1_keyid (t : FrameType) (f : Frame) : be32 (f.regions t).tr1 0 = f.authKeyId.toNat :=
  be32_of_slice (slice_of_eq_append (pre := []) (suf := toBe 4 f.authSize.toNat) rfl rfl (by simp))

theorem be32_tr1_authSize (t : FrameType) (f : Frame) : be32 (f.regions t).tr1 4 = f.authSize.toNat :=
  be32_of_slice (slice_of_eq_append (pre := toBe 4 f.authKeyId.toNat) (suf := []) (by simp [regions]) (by simp) (by simp))

theorem slice_tr2_authValue (t : FrameType) {f : Frame} {n : Nat} (hn : f.authValue.length = n) :
    slice (f.regions t).tr2 0 n = f.authValue :=
  slice_of_eq_append (pre := []) (suf := toBe 8 f.checksum.toNat) rfl rfl hn

theorem be64_tr2_checksum (t : FrameType) {f : Frame} {n : Nat} (hn : f.authValue.length = n) :
    be64 (f.regions t).tr2 n = f.checksum.toNat :=
  be64_of_slice (slice_of_eq_append (pre := f.authValue) (suf := []) (by simp [regions]) hn (by simp))

end Frame

/-- The operands read from a frame's regions are the frame's own. -/
theorem frameOf_regions (t : FrameType) {f : Frame} (hcreator : nameOk f.creator = true) (hdest : nameOk f.destination = true)
    (hauth : f.authValue.length = pad4 f.authSize.toNat) : frameOf (f.regions t) = f := by
  have hc : f.creator.length ≤ 8 := ((nameOk_iff _).mp hcreator).1
  have hd : f.destination.length ≤ 8 := ((nameOk_iff _).mp hdest).1
  simp only [frameOf, f.be32_hdr_toff t, f.be32_tr1_keyid t, f.be32_tr1_authSize t, Frame.slice_hdr_creator t hc,
    Frame.slice_hdr_destination t hc hd, Frame.be64_hdr_sequence t hc hd, Frame.be32_hdr_series t hc hd,
    Frame.slice_tr2_authValue t hauth, Frame.be64_tr2_checksum t hauth, rstrip_padTo_of_nameOk hcreator,
    rstrip_padTo_of_nameOk hdest, BitVec.ofNat_toNat, BitVec.setWidth_eq]
  rfl

/-- A frame's regions decode to the instruction of its type with its operands (R81 to R83). -/
theorem decodeRegions_regions (t : FrameType) {f : Frame} (hwf : f.wellFormed = true) :
    decodeRegions (f.regions t) = .ok (t.instr f) := by
  obtain ⟨-, -, hcreator, hdest, hauth⟩ := f.wellFormed_iff.mp hwf
  have hauth' : f.authValue.length = pad4 f.authSize.toNat := by simpa [Frame.authOk] using hauth
  refine (decodeRegions_ok_iff _ _).mpr ⟨?_, by simp [Frame.regions], ?_, t, ?_, ?_⟩
  · exact Frame.hdr_length t ((nameOk_iff _).mp hcreator).1 ((nameOk_iff _).mp hdest).1
  · rw [f.be32_tr1_authSize t]
    simp [Frame.regions, hauth']
  · rw [Laws.OpcodeField.header_word t f, FrameType.ofCode_eq_some_iff]
    cases t <;> rfl
  · rw [frameOf_regions t hcreator hdest hauth']

end Sys2Proof

namespace Sys2Proof.Proofs

/-- Settles O1: a frame comes back from its regions, a command from its code and its argument line. -/
theorem decodeUndoesEncode : Obligations.DecodeUndoesEncode := by
  intro i hwf
  cases i with
  | connreq f => exact decodeRegions_regions .connectionRequest hwf
  | connrsp f => exact decodeRegions_regions .connectionResponse hwf
  | optreq f => exact decodeRegions_regions .optionRequest hwf
  | optrsp f => exact decodeRegions_regions .optionResponse hwf
  | data f => exact decodeRegions_regions .data hwf
  | acknack f => exact decodeRegions_regions .acknack hwf
  | alert f => exact decodeRegions_regions .alert hwf
  | cmdreq f => exact decodeRegions_regions .commandRequest hwf
  | cmdrsp f => exact decodeRegions_regions .commandResponse hwf
  | cd1encap f => exact decodeRegions_regions .cd1Encapsulation hwf
  | customreset f => exact decodeRegions_regions .customReset hwf
  | _ => rfl

/-- Settles O4, by evaluating the decoder on the words of the spec. -/
theorem specWordsDecode : Obligations.SpecWordsDecode :=
  ⟨by decide, by decide, by decide, by decide, by decide⟩

end Sys2Proof.Proofs

/-! SUPPORT. What a step can do, said once with named cases: the effect of a command, of a poll step and of every other
move (R37, R38, R40, R143). -/

namespace Sys2Proof.Machine

/-! ## Commands -/

/-- `DECODE` on a held frame runs that frame and does the same: a command's effect is that of its own code (log 5). -/
theorem exec_fetchCommand (c : Command) (s : State) (rest : List Input) :
    exec (fetchCommand c s) { s with inputs := rest } = exec (decodeCommand c) { s with inputs := rest } := by
  by_cases hdecode : decodeCommand c = .decode
  · rw [fetchCommand_of_decode s hdecode, hdecode]
    cases hi : heldInstr s with
    | none => rfl
    | some i => exact (Proofs.decodeRunsTheHeldFrame { s with inputs := rest } i hi).symm
  · rw [fetchCommand_of_ne_decode s hdecode]

/-- What an accepted or refused command leaves of `s` (R38, R40). -/
inductive CommandEffect (c : Command) (s : State) : State → Prop
  | nop : CommandEffect c s s
  | refused (sub : RefuseSub) : CommandEffect c s (refuse Config.cfg sub s)
  | rdframe (hcode : c.code = 1) (hphase : s.phase.waiting = false) (hsync : s.desync = false) :
      CommandEffect c s (startRead s)
  | decode (r : Regions) (hraw : s.rawValid = true) (hheld : heldRegions s = some r) :
      CommandEffect c s (decodeRegionsHeld Config.cfg r (beginDecode s))
  | verify (r : Regions) (hdecoded : s.decoded = true) : CommandEffect c s (checkCrc Config.cfg r.bytes (clearError s))
  | encode (hcode : c.code = 4) : CommandEffect c s (encodeReq Config.cfg c.req s)
  | decodebuf (hcode : c.code = 5) (hphase : s.phase.waiting = false) : CommandEffect c s (decodeBuf Config.cfg c.buf s)
  | reset (hcode : c.code = 15) :
      CommandEffect c s { State.reset with stream := c.fresh, inputs := s.inputs, result := s.result }

theorem execRdframe_next {s t : State} (h : execRdframe s = .next t) :
    (∃ sub, t = refuse Config.cfg sub s) ∨ (s.phase.waiting = false ∧ s.desync = false ∧ t = startRead s) := by
  unfold execRdframe at h
  split_ifs at h with hwaiting hdesync
  · cases h; exact .inl ⟨_, rfl⟩
  · cases h; exact .inl ⟨_, rfl⟩
  · cases h; exact .inr ⟨by simpa using hwaiting, by simpa using hdesync, rfl⟩

theorem execEncode_next {req : EncReq} {s t : State} (h : execEncode req s = .next t) :
    t = refuse Config.cfg .busy s ∨ t = encodeReq Config.cfg req s := by
  unfold execEncode at h
  split_ifs at h
  · cases h; exact .inl rfl
  · cases h; exact .inr rfl

theorem execDecodebuf_next {buf : Bytes} {s t : State} (h : execDecodebuf buf s = .next t) :
    t = refuse Config.cfg .busy s ∨ (s.phase.waiting = false ∧ t = decodeBuf Config.cfg buf s) := by
  unfold execDecodebuf at h
  split_ifs at h with hwaiting
  · cases h; exact .inl rfl
  · cases h; exact .inr ⟨by simpa using hwaiting, rfl⟩

theorem code_cases (x : BitVec 4) : x = 0 ∨ x = 1 ∨ x = 2 ∨ x = 3 ∨ x = 4 ∨ x = 5 ∨ (6 ≤ x.toNat ∧ x.toNat ≤ 14) ∨ x = 15 := by
  bv_omega

/-- The codes 6 to 14 are reserved (R281). -/
theorem exec_decodeCommand_reserved {c : Command} (s : State) (hlo : 6 ≤ c.code.toNat) (hhi : c.code.toNat ≤ 14) :
    exec (decodeCommand c) s = .next (refuse Config.cfg .badCommand s) := by
  have hcode : c.code = 6 ∨ c.code = 7 ∨ c.code = 8 ∨ c.code = 9 ∨ c.code = 10 ∨ c.code = 11 ∨ c.code = 12 ∨ c.code = 13
      ∨ c.code = 14 := by bv_omega
  obtain h | h | h | h | h | h | h | h | h := hcode <;> simp only [decodeCommand, h] <;> rfl

theorem exec_decodeCommand_next {c : Command} {s t : State} (h : exec (decodeCommand c) s = .next t) :
    CommandEffect c s t := by
  obtain hcode | hcode | hcode | hcode | hcode | hcode | ⟨hlo, hhi⟩ | hcode := code_cases c.code
  · rw [show decodeCommand c = .nop by simp [decodeCommand, hcode]] at h
    cases h
    exact .nop
  · rw [show decodeCommand c = .rdframe by simp [decodeCommand, hcode]] at h
    obtain ⟨sub, rfl⟩ | ⟨hphase, hsync, rfl⟩ := execRdframe_next h
    · exact .refused sub
    · exact .rdframe hcode hphase hsync
  · rw [show decodeCommand c = .decode by simp [decodeCommand, hcode]] at h
    obtain ⟨-, rfl⟩ | ⟨r, hraw, hheld, rfl⟩ := execDecode_next s t h
    · exact .refused .noFrame
    · exact .decode r hraw hheld
  · rw [show decodeCommand c = .verify by simp [decodeCommand, hcode]] at h
    obtain ⟨-, rfl⟩ | ⟨r, -, hdecoded, -, rfl⟩ := execVerify_next s t h
    · exact .refused .noFrame
    · exact .verify r hdecoded
  · rw [show decodeCommand c = .encode c.req by simp [decodeCommand, hcode]] at h
    obtain rfl | rfl := execEncode_next h
    · exact .refused .busy
    · exact .encode hcode
  · rw [show decodeCommand c = .decodebuf c.buf by simp [decodeCommand, hcode]] at h
    obtain rfl | ⟨hphase, rfl⟩ := execDecodebuf_next h
    · exact .refused .busy
    · exact .decodebuf hcode hphase
  · rw [exec_decodeCommand_reserved s hlo hhi] at h
    cases h
    exact .refused .badCommand
  · rw [show decodeCommand c = .reset c.fresh by simp [decodeCommand, hcode]] at h
    cases h
    exact .reset hcode

/-! ## Poll steps -/

theorem streamRead_prefix (n : Nat) (short : Option Nat) (s : State) : streamRead n short s <+: s.fifo := by
  cases short <;> exact List.take_prefix _ _

theorem streamRead_length_le (n : Nat) (short : Option Nat) (s : State) : (streamRead n short s).length ≤ n := by
  cases short <;> simp only [streamRead, List.length_take] <;> omega

/-- What a poll step leaves of `s`: nothing done, the read ended by an error, or one region stored (R143 to R153). -/
inductive PollEffect (s : State) : State → Prop
  | unchanged : PollEffect s s
  | cutOff (e : Err) (pos : Nat) (hphase : s.phase.waiting = true) : PollEffect s (raise Config.cfg .streamer e pos s)
  | shortRead (d : Bytes) (hphase : s.phase.waiting = true) (hd : d <+: s.fifo) :
      PollEffect s (fatalDesync Config.cfg .shortRead (consume d s))
  | header (d : Bytes) (hphase : s.phase = .wHdr) (hd : d <+: s.fifo) (hlength : d.length = hlen) :
      PollEffect s (storeHeader Config.cfg d (consume d s))
  | body (d : Bytes) (toff : Nat) (hphase : s.phase = .wBody) (hd : d <+: s.fifo) (htoff : storedToff s = some toff)
      (hlength : d.length = toff - hlen) : PollEffect s (storeBody d (consume d s))
  | tr1 (d : Bytes) (toff : Nat) (hphase : s.phase = .wTr1) (hd : d <+: s.fifo) (htoff : storedToff s = some toff)
      (hlength : d.length = tr1Len) : PollEffect s (storeTr1 Config.cfg toff d (consume d s))
  | tr2 (d asz : Bytes) (hphase : s.phase = .wTr2) (hd : d <+: s.fifo) (hasz : Memory.load s.tr1Buf 4 4 = some asz)
      (hlength : d.length = pad4 (beNat asz) + ckLen) : PollEffect s (storeTr2 d (consume d s))

theorem pollUnavailable_effect (halt intr : Bool) {s : State} (hphase : s.phase.waiting = true) :
    PollEffect s (pollUnavailable Config.cfg halt intr s) := by
  obtain ⟨-, -, h⟩ | ⟨-, -, h⟩ | ⟨-, -, h⟩ := pollUnavailable_cases Config.cfg halt intr s <;> rw [h]
  · exact .unchanged
  · exact .cutOff _ _ hphase
  · exact .cutOff _ _ hphase

theorem storeRegion_effect {d : Bytes} {n : Nat} {s t : State} (hphase : s.phase.waiting = true) (hn : needLen s = some n)
    (hd : d <+: s.fifo) (hlength : d.length = n) (h : storeRegion Config.cfg d (consume d s) = .next t) : PollEffect s t := by
  obtain ⟨hp, rfl⟩ | ⟨hp, rfl⟩ | ⟨hp, toff, htoff, rfl⟩ | ⟨hp, rfl⟩ | ⟨hp, -⟩ := storeRegion_next _ _ _ _ h <;>
    rw [consume_phase] at hp
  · simp only [needLen, hp, Option.some.injEq] at hn
    exact .header d hp hd (hlength.trans hn.symm)
  · simp only [needLen, hp, Option.map_eq_some_iff] at hn
    obtain ⟨toff, htoff, hn⟩ := hn
    exact .body d toff hp hd htoff (hlength.trans hn.symm)
  · simp only [needLen, hp, Option.some.injEq] at hn
    exact .tr1 d toff hp hd htoff (hlength.trans hn.symm)
  · simp only [needLen, hp, Option.map_eq_some_iff] at hn
    obtain ⟨asz, hasz, hn⟩ := hn
    exact .tr2 d asz hp hd hasz (hlength.trans hn.symm)
  · rw [hphase] at hp
    cases hp

theorem pollStep_effect {halt intr : Bool} {short : Option Nat} {s t : State}
    (h : pollStep Config.cfg halt intr short s = .next t) : PollEffect s t := by
  obtain ⟨-, rfl⟩ | ⟨n, hphase, hn, hcases⟩ := pollStep_next _ _ _ _ _ _ h
  · exact .unchanged
  obtain ⟨-, rfl⟩ | ⟨-, -, rfl⟩ | ⟨-, hge, hstore⟩ := hcases
  · exact pollUnavailable_effect halt intr hphase
  · exact .shortRead _ hphase (streamRead_prefix n short s)
  · exact storeRegion_effect hphase hn (streamRead_prefix n short s)
      (Nat.le_antisymm (streamRead_length_le n short s) hge) hstore

/-! ## All moves -/

/-- The next move is a poll step, given or the one made when no move is pending, and `rest` is what comes after it (log 4). -/
def NextIsPoll (s : State) (rest : List Input) : Prop :=
  (s.inputs = [] ∧ rest = []) ∨ ∃ halt intr short, s.inputs = .poll halt intr short :: rest

/-- What a step leaves of `s`, move by move (R18, R63). -/
inductive StepEffect (s : State) : State → Prop
  | poll {t : State} (rest : List Input) (hs : NextIsPoll s rest) (h : PollEffect { s with inputs := rest } t) : StepEffect s t
  | command {t : State} (c : Command) (rest : List Input) (hs : s.inputs = .command c :: rest)
      (h : CommandEffect c { s with inputs := rest } t) : StepEffect s t
  | arrive (n : Nat) (rest : List Input) (hs : s.inputs = .arrive n :: rest) :
      StepEffect s (arrive Config.cfg n { s with inputs := rest })
  | csrRead (n : Nat) (rest : List Input) (hs : s.inputs = .csrRead n :: rest) :
      StepEffect s (csrRead Config.cfg n { s with inputs := rest })
  | csrWrite (n : Nat) (v : BitVec 32) (rest : List Input) (hs : s.inputs = .csrWrite n v :: rest) :
      StepEffect s (csrWrite n v { s with inputs := rest })
  | readResult (x : ResultReg) (y : HostValue) (rest : List Input) (hs : s.inputs = .readResult x :: rest) :
      StepEffect s { s with inputs := rest, result := y }

theorem step_effect {s t : State} (h : step s = .next t) : StepEffect s t := by
  obtain ⟨hs, h⟩ | ⟨c, rest, hs, h⟩ | ⟨halt, intr, short, rest, hs, h⟩ | ⟨n, rest, hs, rfl⟩ | ⟨n, rest, hs, rfl⟩ |
    ⟨n, v, rest, hs, rfl⟩ | ⟨x, rest, hs, h⟩ := step_next s t h
  · refine .poll [] (.inl ⟨hs, rfl⟩) ?_
    rw [← hs]
    exact pollStep_effect h
  · rw [exec_fetchCommand] at h
    exact .command c rest hs (exec_decodeCommand_next h)
  · exact .poll rest (.inr ⟨halt, intr, short, hs⟩) (pollStep_effect h)
  · exact .arrive n rest hs
  · exact .csrRead n rest hs
  · exact .csrWrite n v rest hs
  · obtain ⟨-, y, -, rfl⟩ := readResult_next _ _ _ _ h
    exact .readResult x y rest hs

end Sys2Proof.Machine

/-! SUPPORT. What the moves of a step leave unchanged: the ports and `CFG`, the output, the held regions (R22, R24, R25, R30,
R39). -/

namespace Sys2Proof.Machine

open Sys2Proof.Claims

/-! ## Refusal -/

theorem refuse_eq_refusedWith (c : Cfg) (sub : RefuseSub) (s : State) :
    refuse c sub s = refusedWith (Err.refused sub).subcause s := rfl

/-! ## The decode of a frame -/

/-- A decode writes the decode registers and the error registers and nothing else (R45). -/
theorem runDecode_frame (c : Cfg) (header : Except Failure Header) (body : FrameType → Res Body) (len : Nat)
    (trailer : BitVec 32 → Except Failure Trailer) (s : State) :
    SameStreamSide s (runDecode c header body len trailer s) ∧ SameRegions s (runDecode c header body len trailer s)
      ∧ SameOutput s (runDecode c header body len trailer s) := by
  obtain ⟨_, _, -, h⟩ | ⟨_, _, _, -, -, h⟩ | ⟨_, _, _, _, _, -, -, -, h⟩ | ⟨_, _, _, _, -, -, -, h⟩ :=
    runDecode_cases c header body len trailer s
  all_goals simp [h, SameStreamSide, SameRegions, SameOutput]

/-- A decode leaves the checksum flags, and completes exactly if it reports no error (R178). -/
theorem runDecode_flags (c : Cfg) (header : Except Failure Header) (body : FrameType → Res Body) (len : Nat)
    (trailer : BitVec 32 → Except Failure Trailer) {s : State} (hdecoded : s.decoded = false) (hcause : s.cause = 0) :
    (runDecode c header body len trailer s).crcChecked = s.crcChecked
      ∧ (runDecode c header body len trailer s).crcOk = s.crcOk
      ∧ ((runDecode c header body len trailer s).decoded = true ↔ (runDecode c header body len trailer s).cause = 0) := by
  obtain ⟨_, _, -, h⟩ | ⟨_, _, _, -, -, h⟩ | ⟨_, _, _, _, _, -, -, -, h⟩ | ⟨_, _, _, _, -, -, -, h⟩ :=
    runDecode_cases c header body len trailer s
  all_goals simp [h, hdecoded, hcause, Err.cause]

theorem sameOutput_trans {s t u : State} (h : SameOutput s t) (h' : SameOutput t u) : SameOutput s u := by
  obtain ⟨hbuf, hlength, hvalid⟩ := h
  obtain ⟨hbuf', hlength', hvalid'⟩ := h'
  exact ⟨fun a => (hbuf' a).trans (hbuf a), hlength'.trans hlength, hvalid'.trans hvalid⟩

theorem sameOutput_refl (s : State) : SameOutput s s := ⟨fun _ => rfl, rfl, rfl⟩

theorem sameRegions_refl (s : State) : SameRegions s s := ⟨fun _ => rfl, fun _ => rfl, fun _ => rfl, fun _ => rfl, rfl, rfl⟩

/-- The two states agree on every flag and error register of a decode, on the header registers where they are valid and
on `V` and the trailer registers where the frame decoded (R45). -/
def SameDecode (t t' : State) : Prop :=
  t'.hdrValid = t.hdrValid ∧ t'.decoded = t.decoded
    ∧ t'.cause = t.cause ∧ t'.subcause = t.subcause ∧ t'.epos = t.epos ∧ t'.warn = t.warn
    ∧ t'.degraded = t.degraded ∧ t'.skipList = t.skipList ∧ t'.crcChecked = t.crcChecked ∧ t'.crcOk = t.crcOk
    ∧ (t.hdrValid = true → t'.hType = t.hType ∧ t'.hToff = t.hToff ∧ t'.hCreator = t.hCreator ∧ t'.hDest = t.hDest
        ∧ t'.hSeq = t.hSeq ∧ t'.hSeries = t.hSeries)
    ∧ (t.decoded = true → t'.v = t.v ∧ t'.tKeyid = t.tKeyid ∧ t'.tAuthsz = t.tAuthsz ∧ t'.tAuthval = t.tAuthval
        ∧ t'.tCksum = t.tCksum)

/-- With the decode registers cleared, what a decode delivers is what its stages answer. -/
theorem runDecode_beginDecode_sameDecode (c : Cfg) (header : Except Failure Header) (body : FrameType → Res Body) (len : Nat)
    (trailer : BitVec 32 → Except Failure Trailer) (s s' : State) :
    SameDecode (runDecode c header body len trailer (beginDecode s)) (runDecode c header body len trailer (beginDecode s')) := by
  unfold runDecode
  match header with
  | .error (sub, pos) => simp [SameDecode]
  | .ok h =>
    match hb : body h.ty with
    | .fail sub pos => simp [SameDecode, hb]
    | .ok b k =>
      match ht : trailer h.toff with
      | .error (sub, pos) => simp [SameDecode, hb, ht]
      | .ok t => simp [SameDecode, hb, ht]

/-! ## The ports and `CFG` -/

/-- The program counter, the transport's buffer, the stream and `CFG` are as before. -/
structure SamePorts (s t : State) : Prop where
  spos : t.spos = s.spos
  fifo : t.fifo = s.fifo
  stream : t.stream = s.stream
  cfg : t.cfg = s.cfg

theorem samePorts_iff (s t : State) : SamePorts s t ↔
    t.spos = s.spos ∧ t.fifo = s.fifo ∧ t.stream = s.stream ∧ t.cfg = s.cfg :=
  ⟨fun ⟨hspos, hfifo, hstream, hcfg⟩ => ⟨hspos, hfifo, hstream, hcfg⟩,
    fun ⟨hspos, hfifo, hstream, hcfg⟩ => ⟨hspos, hfifo, hstream, hcfg⟩⟩

theorem SamePorts.refl (s : State) : SamePorts s s := ⟨rfl, rfl, rfl, rfl⟩

theorem SamePorts.of_sameStreamSide {s t : State} (h : SameStreamSide s t) : SamePorts s t := by
  obtain ⟨-, hspos, -, -, -, hcfg, hfifo, hstream, -⟩ := h
  exact ⟨hspos, hfifo, hstream, hcfg⟩

theorem SamePorts.trans {s t u : State} (h : SamePorts s t) (h' : SamePorts t u) : SamePorts s u :=
  ⟨h'.spos.trans h.spos, h'.fifo.trans h.fifo, h'.stream.trans h.stream, h'.cfg.trans h.cfg⟩

/-! ## `DECODEBUF` -/

theorem decodeRegionsHeld_frame (c : Cfg) (r : Regions) (s : State) :
    SameStreamSide s (decodeRegionsHeld c r s) ∧ SameRegions s (decodeRegionsHeld c r s)
      ∧ SameOutput s (decodeRegionsHeld c r s) := runDecode_frame ..

theorem verifyDecoded_frame (c : Cfg) (r : Regions) (s : State) :
    SamePorts s (verifyDecoded c r s) ∧ SameOutput s (verifyDecoded c r s) ∧ (verifyDecoded c r s).desync = s.desync
      ∧ (verifyDecoded c r s).phase = s.phase := by
  obtain ⟨-, h⟩ | ⟨-, h⟩ := verifyDecoded_cases c r s <;> simp [h, samePorts_iff, SameOutput]

/-- What `DECODEBUF` leaves beside the registers and buffers it writes (R179). -/
theorem decodeBuf_frame (c : Cfg) (buf : Bytes) (s : State) :
    SamePorts s (decodeBuf c buf s) ∧ SameOutput s (decodeBuf c buf s) ∧ (decodeBuf c buf s).desync = s.desync
      ∧ (decodeBuf c buf s).phase.waiting = false := by
  obtain ⟨sub, pos, -, h⟩ | ⟨r, -, h⟩ := decodeBuf_cases c buf s
  · simp [h, samePorts_iff, SameOutput, Phase.waiting]
  · rw [h]
    have hbegin : SamePorts s (setRegions r (beginDecodebuf s)) := by simp [samePorts_iff]
    have hbegin' : SameOutput s (setRegions r (beginDecodebuf s)) := by simp [SameOutput]
    obtain ⟨hstream, -, hout⟩ := decodeRegionsHeld_frame c r (setRegions r (beginDecodebuf s))
    obtain ⟨hports', hout', hdesync', hphase'⟩ :=
      verifyDecoded_frame c r (decodeRegionsHeld c r (setRegions r (beginDecodebuf s)))
    have hports := SamePorts.of_sameStreamSide hstream
    obtain ⟨hphase, -, -, hdesync, -⟩ := hstream
    refine ⟨(hbegin.trans hports).trans hports', sameOutput_trans hbegin' (sameOutput_trans hout hout'), ?_, ?_⟩
    · rw [hdesync', hdesync, setRegions_desync, beginDecodebuf_desync]
    · rw [hphase', hphase, setRegions_phase]
      rfl

/-! ## Commands -/

theorem encodeReq_frame (c : Cfg) (req : EncReq) (s : State) :
    SamePorts s (encodeReq c req s) ∧ SameRegions s (encodeReq c req s) ∧ (encodeReq c req s).rawValid = s.rawValid
      ∧ (encodeReq c req s).desync = s.desync ∧ (encodeReq c req s).phase = s.phase := by
  obtain ⟨_, -, h⟩ | ⟨_, -, h⟩ := encodeReq_cases c req s
  all_goals simp [h, samePorts_iff, SameRegions]

section CommandFrames

variable {c : Command} {s t : State}

/-- No command but `RESET` reads the stream or writes `CFG`. -/
theorem CommandEffect.samePorts_or_reset (h : CommandEffect c s t) :
    SamePorts s t ∨ (c.code = 15 ∧ t.spos = 0 ∧ t.fifo = [] ∧ t.cfg = 1) := by
  cases h with
  | decode r _ _ => exact .inl (.of_sameStreamSide (decodeRegionsHeld_frame _ r (beginDecode s)).1)
  | encode _ => exact .inl (encodeReq_frame _ _ s).1
  | decodebuf _ _ => exact .inl (decodeBuf_frame _ _ s).1
  | reset hcode => exact .inr ⟨hcode, rfl, rfl, rfl⟩
  | _ => exact .inl (by simp [samePorts_iff, refuse])

/-- No command but `RESET` ends a desynchronised stream or starts a read on it (R24, R40). -/
theorem CommandEffect.desync (h : CommandEffect c s t) (hdesync : s.desync = true) (hphase : s.phase.waiting = false)
    (hcode : c.code ≠ 15) : t.desync = true ∧ t.phase.waiting = false := by
  cases h with
  | rdframe _ _ hsync => rw [hdesync] at hsync; cases hsync
  | decode r _ _ =>
    obtain ⟨⟨hp, -, -, hd, -⟩, -⟩ := decodeRegionsHeld_frame Config.cfg r (beginDecode s)
    exact ⟨hd.trans hdesync, (congrArg Phase.waiting hp).trans hphase⟩
  | encode _ =>
    obtain ⟨-, -, -, hd, hp⟩ := encodeReq_frame Config.cfg c.req s
    exact ⟨hd.trans hdesync, (congrArg Phase.waiting hp).trans hphase⟩
  | decodebuf _ _ =>
    obtain ⟨-, -, hd, hp⟩ := decodeBuf_frame Config.cfg c.buf s
    exact ⟨hd.trans hdesync, hp⟩
  | reset hreset => exact absurd hreset hcode
  | _ => simp [refuse, hdesync, hphase]

/-- The held regions change by `RDFRAME`, `DECODEBUF` and `RESET` alone (R25, R59). -/
theorem CommandEffect.sameRegions (h : CommandEffect c s t) (hcode : c.code ∉ [1, 5, 15]) :
    SameRegions s t ∧ t.rawValid = s.rawValid := by
  simp only [List.mem_cons, List.not_mem_nil, or_false, not_or] at hcode
  obtain ⟨h1, h5, h15⟩ := hcode
  cases h with
  | rdframe hread _ _ => exact absurd hread h1
  | decode r _ _ =>
    obtain ⟨⟨-, -, -, -, hraw, -⟩, hregions, -⟩ := decodeRegionsHeld_frame Config.cfg r (beginDecode s)
    exact ⟨hregions, hraw⟩
  | encode _ =>
    obtain ⟨-, hregions, hraw, -⟩ := encodeReq_frame Config.cfg c.req s
    exact ⟨hregions, hraw⟩
  | decodebuf hbuf _ => exact absurd hbuf h5
  | reset hreset => exact absurd hreset h15
  | _ => simp [SameRegions, refuse]

/-- The output changes by `ENCODE` and `RESET` alone (R39). -/
theorem CommandEffect.sameOutput (h : CommandEffect c s t) (hcode : c.code ∉ [4, 15]) : SameOutput s t := by
  simp only [List.mem_cons, List.not_mem_nil, or_false, not_or] at hcode
  obtain ⟨h4, h15⟩ := hcode
  cases h with
  | decode r _ _ => exact (decodeRegionsHeld_frame _ r (beginDecode s)).2.2
  | encode hencode => exact absurd hencode h4
  | decodebuf _ _ => exact (decodeBuf_frame _ _ s).2.1
  | reset hreset => exact absurd hreset h15
  | _ => simp [SameOutput, refuse]

end CommandFrames

/-! ## Poll steps -/

theorem storeHeader_frame (c : Cfg) (d : Bytes) (s : State) :
    SamePorts s (storeHeader c d s) ∧ SameOutput s (storeHeader c d s) := by
  obtain ⟨-, h⟩ | ⟨-, -, h⟩ | ⟨-, -, h⟩ := storeHeader_cases c d s <;>
    simp [h, fatalMalformed, samePorts_iff, SameOutput]

theorem storeTr1_frame (c : Cfg) (toff : Nat) (d : Bytes) (s : State) :
    SamePorts s (storeTr1 c toff d s) ∧ SameOutput s (storeTr1 c toff d s) := by
  obtain ⟨-, h⟩ | ⟨-, h⟩ := storeTr1_cases c toff d s <;> simp [h, fatalMalformed, samePorts_iff, SameOutput]

@[simp] theorem consume_nil (s : State) : consume [] s = s := by
  simp [consume]

/-- A poll step takes bytes off the front of the transport's buffer, in a waiting phase only, and leaves the rest of the
ports, `CFG` and the output (R22, R53). -/
theorem PollEffect.frame {s t : State} (h : PollEffect s t) :
    ∃ d, d <+: s.fifo ∧ (d ≠ [] → s.phase.waiting = true) ∧ SamePorts (consume d s) t ∧ SameOutput s t := by
  cases h with
  | unchanged => exact ⟨[], List.nil_prefix, (absurd rfl ·), by rw [consume_nil]; exact .refl s, sameOutput_refl s⟩
  | cutOff e pos hphase => exact ⟨[], List.nil_prefix, fun _ => hphase, by simp [samePorts_iff], by simp [SameOutput]⟩
  | shortRead d hphase hd =>
    exact ⟨d, hd, fun _ => hphase, by simp [samePorts_iff, fatalDesync], by simp [SameOutput, fatalDesync]⟩
  | header d hphase hd _ =>
    obtain ⟨hports, hout⟩ := storeHeader_frame Config.cfg d (consume d s)
    exact ⟨d, hd, fun _ => by rw [hphase]; rfl, hports, sameOutput_trans (by simp [SameOutput]) hout⟩
  | body d toff hphase hd _ _ =>
    exact ⟨d, hd, fun _ => by rw [hphase]; rfl, by simp [samePorts_iff], by simp [SameOutput]⟩
  | tr1 d toff hphase hd _ _ =>
    obtain ⟨hports, hout⟩ := storeTr1_frame Config.cfg toff d (consume d s)
    exact ⟨d, hd, fun _ => by rw [hphase]; rfl, hports, sameOutput_trans (by simp [SameOutput]) hout⟩
  | tr2 d asz hphase hd _ _ =>
    exact ⟨d, hd, fun _ => by rw [hphase]; rfl, by simp [samePorts_iff], by simp [SameOutput]⟩

/-- Outside a waiting phase no poll step is enabled (R143, R275; log 28). -/
theorem pollStep_of_not_waiting (c : Cfg) (halt intr : Bool) (short : Option Nat) {s : State}
    (hphase : s.phase.waiting = false) : pollStep c halt intr short s = .next s := by
  simp [pollStep, hphase]

theorem PollEffect.eq_of_not_waiting {s t : State} (h : PollEffect s t) (hphase : s.phase.waiting = false) : t = s := by
  cases h with
  | unchanged => rfl
  | cutOff _ _ hp => simp [hp] at hphase
  | shortRead _ hp _ => simp [hp] at hphase
  | header _ hp _ _ => simp [hp, Phase.waiting] at hphase
  | body _ _ hp _ _ _ => simp [hp, Phase.waiting] at hphase
  | tr1 _ _ hp _ _ _ => simp [hp, Phase.waiting] at hphase
  | tr2 _ _ hp _ _ _ => simp [hp, Phase.waiting] at hphase

/-! ## Host writes and arrivals -/

theorem csrWrite_frame (n : Nat) (v : BitVec 32) (s : State) :
    csrWrite n v s = s ∨ (n = 0 ∧ s.phase.waiting = false ∧ csrWrite n v s = { s with cfg := v &&& 1 }) := by
  obtain ⟨hn, hphase, h⟩ | ⟨-, h⟩ := csrWrite_cases n v s
  · exact .inr ⟨hn, hphase, h⟩
  · exact .inl h

/-! ## The bytes a step consumes -/

/-- The step takes bytes off the front of the transport's buffer and adds their number to `SPOS`, none unless it is a poll
step in a waiting phase (R22, R53). -/
def ConsumesFront (s t : State) : Prop :=
  ∃ d, s.fifo = d ++ t.fifo ∧ t.stream = s.stream ∧ t.spos = s.spos + BitVec.ofNat 64 d.length
    ∧ (d ≠ [] → s.phase.waiting = true ∧ (s.inputs = [] ∨ ∃ halt intr short rest, s.inputs = .poll halt intr short :: rest))

theorem consumesFront_of_unchanged {s t : State} (hspos : t.spos = s.spos) (hfifo : t.fifo = s.fifo)
    (hstream : t.stream = s.stream) : ConsumesFront s t :=
  ⟨[], hfifo.symm, hstream, by simp [hspos], (absurd rfl ·)⟩

theorem nextIsCommand_of_mem {codes : List (BitVec 4)} {s : State} {c : Command} {rest : List Input}
    (hs : s.inputs = .command c :: rest) (hcode : c.code ∈ codes) : NextIsCommand codes s := ⟨c, rest, hs, hcode⟩

end Sys2Proof.Machine

namespace Sys2Proof.Proofs

open Sys2Proof.Machine Sys2Proof.Claims

/-- Settles O25: each refusal is the branch of R40 that the phase and the flags select. -/
theorem refusedCommands : Obligations.RefusedCommands := by
  intro s req buf
  refine ⟨fun hphase => ?_, fun hphase hdesync => ?_, fun hraw => ?_, fun hready => ?_⟩
  · refine ⟨?_, ?_, ?_⟩
    · simp only [exec, execRdframe, hphase, if_true, refuse_eq_refusedWith, Err.subcause]
    · simp only [exec, execEncode, hphase, if_true, refuse_eq_refusedWith, Err.subcause]
    · simp only [exec, execDecodebuf, hphase, if_true, refuse_eq_refusedWith, Err.subcause]
  · simp only [exec, execRdframe, hphase, hdesync, if_true, Bool.false_eq_true, if_false,
      refuse_eq_refusedWith, Err.subcause]
  · simp only [exec, execDecode, hraw, Bool.false_eq_true, if_false, refuse_eq_refusedWith, Err.subcause]
  · have hnot : (s.rawValid && s.decoded) = false := Bool.and_eq_false_iff.mpr hready
    simp only [exec, execVerify, hnot, Bool.false_eq_true, if_false, refuse_eq_refusedWith, Err.subcause]

/-- Settles O23: a frame is a decode run on the state with the decode registers cleared. -/
theorem framesWriteOnlyDecodeResults : Obligations.FramesWriteOnlyDecodeResults := by
  intro t f s
  refine ⟨_, exec_frame t f s, ?_⟩
  obtain ⟨hstream, hregions, hout⟩ := runDecode_frame Config.cfg (frameHeader t f)
    (fun _ => bodyDec Config.cfg s.realign t f.body) f.body.length (frameTrailer f) (beginDecode s)
  obtain ⟨hchecked, hok, hdecoded⟩ := runDecode_flags Config.cfg (frameHeader t f)
    (fun _ => bodyDec Config.cfg s.realign t f.body) f.body.length (frameTrailer f) (s := beginDecode s) rfl rfl
  exact ⟨hstream, hregions, hout, hchecked, hok, hdecoded⟩

/-- Settles O30: the stages of a decode see the held regions and `CFG.REALIGN` alone. -/
theorem decodeForgetsEarlierFrames : Obligations.DecodeForgetsEarlierFrames := by
  intro s s' t hraw hraw' hsame hrealign hstep
  obtain ⟨hinvalid, -⟩ | ⟨r, -, hheld, rfl⟩ := execDecode_next s t hstep
  · rw [hraw] at hinvalid
    cases hinvalid
  · refine ⟨_, exec_decode_of_held hraw' (hsame.symm.trans hheld), ?_⟩
    have hrealign' : (beginDecode s').realign = (beginDecode s).realign := hrealign.symm
    simp only [decodeRegionsHeld, hrealign']
    exact runDecode_beginDecode_sameDecode ..

/-- Settles O49, move by move: the only command that would read the stream is refused. -/
theorem desyncIsSticky : Obligations.DesyncIsSticky := by
  intro s t hdesync hphase hstep
  cases step_effect hstep with
  | poll rest hs h =>
    obtain rfl := h.eq_of_not_waiting hphase
    exact .inr ⟨hdesync, hphase, rfl⟩
  | command c rest hs h =>
    by_cases hcode : c.code = 15
    · exact .inl (nextIsCommand_of_mem hs (by simp [hcode]))
    · obtain ⟨hd, hp⟩ := h.desync hdesync hphase hcode
      obtain hports | ⟨hreset, -⟩ := h.samePorts_or_reset
      · exact .inr ⟨hd, hp, hports.spos⟩
      · exact absurd hreset hcode
  | csrWrite n v rest hs =>
    obtain h | ⟨-, -, h⟩ := csrWrite_frame n v { s with inputs := rest } <;> rw [h] <;>
      exact .inr ⟨hdesync, hphase, rfl⟩
  | arrive n rest hs => exact .inr ⟨hdesync, hphase, rfl⟩
  | csrRead n rest hs => exact .inr ⟨hdesync, hphase, rfl⟩
  | readResult x y rest hs => exact .inr ⟨hdesync, hphase, rfl⟩

/-- Settles O51, move by move. -/
theorem cfgIsWrittenOnlyByTheHost : Obligations.CfgIsWrittenOnlyByTheHost := by
  intro s t hstep
  cases step_effect hstep with
  | poll rest hs h =>
    obtain ⟨d, -, -, hports, -⟩ := h.frame
    exact .inl hports.cfg
  | command c rest hs h =>
    obtain hports | ⟨hcode, -, -, hcfg⟩ := h.samePorts_or_reset
    · exact .inl hports.cfg
    · exact .inr (.inr ⟨nextIsCommand_of_mem hs (by simp [hcode]), hcfg⟩)
  | csrWrite n v rest hs =>
    obtain h | ⟨rfl, hphase, h⟩ := csrWrite_frame n v { s with inputs := rest } <;> rw [h]
    · exact .inl rfl
    · exact .inr (.inl ⟨v, rest, hs, hphase, rfl⟩)
  | _ => exact .inl rfl

/-- Settles O50: poll steps take bytes off the front, arrivals move them up, `RESET` starts over. -/
theorem sposCountsConsumedBytes : Obligations.SposCountsConsumedBytes := by
  intro s t hstep
  cases step_effect hstep with
  | poll rest hs h =>
    obtain ⟨d, ⟨suf, hd⟩, hphase, hports, -⟩ := h.frame
    refine .inl ⟨d, ?_, hports.stream, hports.spos, fun hne => ⟨hphase hne, ?_⟩⟩
    · rw [hports.fifo, consume_fifo, ← hd, List.drop_left]
    · obtain ⟨hnil, -⟩ | ⟨halt, intr, short, hpoll⟩ := hs
      · exact .inl hnil
      · exact .inr ⟨halt, intr, short, rest, hpoll⟩
  | command c rest hs h =>
    obtain hports | ⟨hcode, hspos, hfifo, -⟩ := h.samePorts_or_reset
    · exact .inl (consumesFront_of_unchanged hports.spos hports.fifo hports.stream)
    · exact .inr (.inr ⟨nextIsCommand_of_mem hs (by simp [hcode]), hspos, hfifo⟩)
  | arrive n rest hs =>
    refine .inr (.inl ⟨n, rest, hs, rfl, ?_, ?_⟩)
    · simp [arrive]
    · simp [arrive]
  | csrRead n rest hs => exact .inl (consumesFront_of_unchanged rfl rfl rfl)
  | csrWrite n v rest hs =>
    refine .inl ?_
    obtain h | ⟨-, -, h⟩ := csrWrite_frame n v { s with inputs := rest } <;> rw [h] <;>
      exact consumesFront_of_unchanged rfl rfl rfl
  | readResult x y rest hs => exact .inl (consumesFront_of_unchanged rfl rfl rfl)

/-- Settles O52, move by move: which commands write which buffer. -/
theorem heldFrameAndOutputAreStable : Obligations.HeldFrameAndOutputAreStable := by
  intro s t hstep
  cases step_effect hstep with
  | poll rest hs h =>
    refine ⟨fun hphase _ => ?_, fun _ => ?_⟩
    · obtain rfl := h.eq_of_not_waiting hphase
      exact ⟨sameRegions_refl s, rfl⟩
    · obtain ⟨-, -, -, -, hout⟩ := h.frame
      exact hout
  | command c rest hs h =>
    exact ⟨fun _ hcode => h.sameRegions fun hmem => hcode (nextIsCommand_of_mem hs hmem),
      fun hcode => h.sameOutput fun hmem => hcode (nextIsCommand_of_mem hs hmem)⟩
  | csrWrite n v rest hs =>
    obtain h | ⟨-, -, h⟩ := csrWrite_frame n v { s with inputs := rest } <;> rw [h] <;>
      exact ⟨fun _ _ => ⟨sameRegions_refl s, rfl⟩, fun _ => sameOutput_refl s⟩
  | _ => exact ⟨fun _ _ => ⟨sameRegions_refl s, rfl⟩, fun _ => sameOutput_refl s⟩

/-- Settles O60: the branches of the step, and the transport's buffer not overflowing. -/
theorem stepMakesTheOtherMoves : Obligations.StepMakesTheOtherMoves := by
  intro s
  refine ⟨fun hs => ?_, fun halt intr short rest hs => ?_, fun n rest hs hfits => ?_, fun hphase halt intr short => ?_⟩
  · simp only [step, hs]
  · simp only [step, hs]
  · have hmin : min n (Config.cfg.fifoDepth - s.fifo.length) = n := by omega
    simp only [step, hs, arrive, hmin]
  · exact pollStep_of_not_waiting Config.cfg halt intr short hphase

end Sys2Proof.Proofs

/-! SUPPORT. The host's registers: the status bits (R31, R34), the register numbers (R41) and the reads by name (R44). -/

namespace Sys2Proof.Machine

open Sys2Proof.Claims

/-! ## Status words -/

theorem flagBit_getLsbD {k : Nat} (b : Bool) (i : Nat) (hk : k < 32) :
    (flagBit k b).getLsbD i = if i = k then b else false := by
  cases b with
  | false => simp [flagBit]
  | true =>
    rw [flagBit, if_pos rfl, BitVec.getLsbD_ofNat, Nat.testBit_two_pow]
    by_cases hi : i = k
    · simp [hi, hk]
    · simp [hi, Ne.symm hi]

theorem status_getLsbD (s : State) (i : Nat) : s.status.getLsbD i =
    (if i = 0 then s.phase.waiting else if i = 1 then s.rawValid else if i = 2 then s.hdrValid
     else if i = 3 then s.decoded else if i = 4 then s.crcChecked else if i = 5 then s.crcChecked && s.crcOk
     else if i = 6 then s.degraded else if i = 7 then s.desync else if i = 8 then decide (s.cause ≠ 0)
     else if i = 9 then s.txValid else false) := by
  have hcause : (s.cause != 0) = decide (s.cause ≠ 0) := by simp [bne, beq_eq_decide]
  simp (disch := decide) only [State.status, BitVec.getLsbD_or, flagBit_getLsbD, hcause]
  by_cases hi : i < 10
  · interval_cases i <;> simp
  · have hne (k : Nat) (hk : k < 10) : i ≠ k := by omega
    simp [hne]

theorem cond_getLsbD (s : State) (i : Nat) : s.cond.getLsbD i =
    (if i = 4 then s.crcChecked && !s.crcOk else if i = 5 then s.degraded else false) := by
  simp (disch := decide) only [State.cond, BitVec.getLsbD_or, flagBit_getLsbD]
  by_cases h4 : i = 4
  · simp [h4]
  · simp [h4]

/-! ## Register numbers -/

/-- A write to `CFG` stores its bit 0 (R30). -/
theorem cfgWritable_eq (v : BitVec 32) : cfgWritable v = if v.getLsbD 0 then 1 else 0 := by
  refine BitVec.eq_of_getLsbD_eq fun i hi => ?_
  by_cases h0 : i = 0
  · subst h0
    rw [cfgWritable, BitVec.getLsbD_and]
    cases v.getLsbD 0 <;> rfl
  · cases hv : v.getLsbD 0 <;> simp [cfgWritable, h0]

theorem lengthView_toNat (c : Cfg) (n : Nat) {len : Nat} (h : len < 2 ^ 32) : (lengthView c n len).toNat = len := by
  rw [lengthView, if_pos h, BitVec.toNat_ofNat, Nat.mod_eq_of_lt h]

/-- The two registers of `SPOS` are its halves (R41). -/
theorem toNat_eq_extractLsb'_halves (x : BitVec 64) :
    x.toNat = (x.extractLsb' 32 32).toNat * 2 ^ 32 + (x.extractLsb' 0 32).toNat := by
  have hx := x.isLt
  simp only [BitVec.extractLsb'_toNat, Nat.shiftRight_eq_div_pow]
  omega

theorem csr_of_gt (c : Cfg) (s : State) {n : Nat} (h : 11 < n) : s.csr c n = 0 := by
  have hne (k : Nat) (hk : k ≤ 11) : n ≠ k := by omega
  simp [State.csr, hne]

/-! ## Reads by name -/

theorem phase_ne_of_not_waiting {s : State} (h : s.phase.waiting = false) :
    s.phase ≠ .wBody ∧ s.phase ≠ .wTr1 ∧ s.phase ≠ .wTr2 := by
  refine ⟨?_, ?_, ?_⟩ <;> intro hp <;> simp [hp, Phase.waiting] at h

theorem step_readResult {s : State} {x : ResultReg} {rest : List Input} (hs : s.inputs = .readResult x :: rest) :
    step s = readResult Config.cfg x { s with inputs := rest } := by
  simp only [step, hs]

theorem readable_inputs (s : State) (rest : List Input) (x : ResultReg) :
    readable { s with inputs := rest } x = readable s x := by
  cases x <;> rfl

theorem step_of_not_readable {s : State} {x : ResultReg} {rest : List Input} (hs : s.inputs = .readResult x :: rest)
    (hx : readable s x = false) : step s = .fault (.invalidRead x) := by
  rw [step_readResult hs, readResult_of_not_readable Config.cfg (by rwa [readable_inputs])]

theorem delivers_of_value {s : State} {x : ResultReg} {rest : List Input} {y : HostValue}
    (hs : s.inputs = .readResult x :: rest) (hx : readable s x = true)
    (hy : resultValue Config.cfg { s with inputs := rest } x = some y) : Delivers s rest y := by
  rw [Delivers, step_readResult hs, readResult_of_value (by rwa [readable_inputs]) hy]

theorem subframeAt_of_data {s : State} {d : DataFrame} (h : s.v = .data d) (place : Nat) :
    subframeAt s place = d.subframes[place]? := by
  simp only [subframeAt, h]

theorem subframeAt_eq_none {s : State} {place : Nat} (h : ∀ d, s.v = .data d → d.subframes[place]? = none) :
    subframeAt s place = none := by
  unfold subframeAt
  split
  · rename_i d hd; exact h d hd
  · rfl

end Sys2Proof.Machine

namespace Sys2Proof.Proofs

open Sys2Proof.Machine Sys2Proof.Claims

/-- Settles O54, bit by bit. -/
theorem statusAndCondBits : Obligations.StatusAndCondBits := fun s => ⟨status_getLsbD s, cond_getLsbD s⟩

/-- Settles O53: the table of R41, and the one write it allows. -/
theorem registerNumbers : Obligations.RegisterNumbers := by
  refine ⟨fun s n rest hs => ⟨?_, rfl, rfl, ?_, ?_, rfl, rfl, rfl, toNat_eq_extractLsb'_halves s.spos,
    lengthView_toNat _ 9, lengthView_toNat _ 10, lengthView_toNat _ 11, csr_of_gt Config.cfg s⟩, fun s n v rest hs => ⟨?_, ?_⟩⟩
  · simp only [step, hs]
    rfl
  · exact BitVec.toNat_setWidth_of_le (b := s.cause) (by decide)
  · exact BitVec.toNat_setWidth_of_le (b := s.subcause) (by decide)
  · rintro rfl hphase
    simp only [step, hs, csrWrite, hphase, cfgWritable_eq, and_self, if_true]
  · intro hignored
    have hnot : ¬(n = 0 ∧ s.phase.waiting = false) := by
      rintro ⟨hn, hphase⟩
      obtain hn' | hphase' := hignored
      · exact hn' hn
      · simp [hphase] at hphase'
    simp only [step, hs, csrWrite, hnot, if_false]

/-- Settles O55: each clause is a register that the host may not read now. -/
theorem invalidRegistersFault : Obligations.InvalidRegistersFault := by
  intro s x rest hs
  refine ⟨fun hhdr hx => ?_, fun hdec hx => ?_, fun hraw hphase hx => ?_, fun hraw hphase hx => ?_, fun hraw hphase hx => ?_,
    fun hraw hphase hx => ?_, fun hraw hphase hx => ?_, fun htx hx => ?_, fun hcrc => ?_⟩
  case refine_9 => simp only [status_getLsbD, hcrc]; rfl
  all_goals refine step_of_not_readable hs ?_
  · simp only [List.mem_cons, List.not_mem_nil, or_false] at hx
    obtain rfl | rfl | rfl | rfl | rfl | rfl := hx <;> exact hhdr
  · simp only [List.mem_cons, List.not_mem_nil, or_false] at hx
    obtain rfl | rfl | rfl | rfl | rfl := hx <;> exact hdec
  · simp only [List.mem_cons, List.not_mem_nil, or_false] at hx
    obtain ⟨hbody, htr1, htr2⟩ := phase_ne_of_not_waiting hphase
    obtain rfl | rfl | rfl | rfl := hx <;> simp [readable, hraw, hbody, htr1, htr2]
  · simp only [List.mem_cons, List.not_mem_nil, or_false] at hx
    obtain rfl | rfl | rfl | rfl := hx <;> simp [readable, hraw, hphase]
  · simp only [List.mem_cons, List.not_mem_nil, or_false] at hx
    obtain rfl | rfl | rfl := hx <;> simp [readable, hraw, hphase]
  · simp only [List.mem_cons, List.not_mem_nil, or_false] at hx
    obtain rfl | rfl := hx <;> simp [readable, hraw, hphase]
  · subst hx; simp [readable, hraw]
  · subst hx; exact htx

/-- Settles O56: each clause names a register that the host may read now, and its value. -/
theorem validRegistersAreDelivered : Obligations.ValidRegistersAreDelivered := by
  intro s rest x hs
  refine ⟨fun hhdr => ?_, fun hdec => ?_, ?_, ?_, ?_, ?_, ?_, ?_⟩
  · refine ⟨?_, ?_, ?_, ?_, ?_, ?_⟩ <;> rintro rfl <;> exact delivers_of_value hs hhdr rfl
  · refine ⟨?_, ?_, ?_, ?_, ?_, fun i => ⟨fun d f hv hf => ?_, fun hnone hx => ?_⟩⟩
    iterate 5
      · rintro rfl
        exact delivers_of_value hs hdec rfl
    · have hplace : subframeAt { s with inputs := rest } i = some f := (subframeAt_of_data hv i).trans hf
      constructor <;> rintro rfl <;> refine delivers_of_value hs hdec ?_ <;>
        simp only [resultValue, hplace, Option.bind_some]
    · have hplace : subframeAt { s with inputs := rest } i = none := subframeAt_eq_none hnone
      obtain rfl | rfl := hx <;> refine delivers_of_value hs hdec ?_ <;>
        simp only [resultValue, hplace, Option.bind_none]
  · rintro b rfl hload hvalid
    refine delivers_of_value hs ?_ (bufferValue_of_load hload)
    simpa [readable, or_assoc] using hvalid
  · rintro b rfl hload hvalid
    refine delivers_of_value hs ?_ (bufferValue_of_load hload)
    simpa [readable, or_assoc] using hvalid
  · rintro b rfl hload hvalid
    refine delivers_of_value hs ?_ (bufferValue_of_load hload)
    simpa [readable] using hvalid
  · rintro b rfl hload hvalid
    exact delivers_of_value hs hvalid (bufferValue_of_load hload)
  · rintro b rfl hload hvalid
    exact delivers_of_value hs hvalid (bufferValue_of_load hload)
  · rintro rfl
    exact delivers_of_value hs rfl rfl

end Sys2Proof.Proofs

/-! SUPPORT. The invariant under each operation of the machine (R21 to R39, R261). -/

namespace Sys2Proof

/-! ## Fields -/

theorem nameOk_rstrip {x : Bytes} (h : x.length ≤ 8) : nameOk (rstrip x) = true := by
  refine (nameOk_iff _).mpr ⟨?_, ?_⟩
  · have hle : (x.reverse.dropWhile (fun y => y == 0)).length ≤ x.reverse.length := List.length_dropWhile_le ..
    rw [List.length_reverse] at hle
    rw [rstrip, List.length_reverse]
    omega
  · rw [rstrip, List.getLast?_reverse]
    intro hhead
    have hnot := List.head?_dropWhile_not (fun y : Byte => y == 0) x.reverse
    rw [hhead] at hnot
    simp at hnot

theorem slice_length_le (b : Bytes) (o n : Nat) : (slice b o n).length ≤ n := by
  simp [slice]

theorem slice_slice (b : Bytes) {a n o k : Nat} (h : o + k ≤ n) : slice (slice b a n) o k = slice b (a + o) k := by
  simp only [slice, List.drop_take, List.drop_drop, List.take_take]
  rw [Nat.min_eq_left (by omega)]

theorem putUInt_length {n v : Nat} {out : Bytes} (h : putUInt n v = .ok out) : out.length = n := by
  obtain ⟨-, rfl⟩ := (putUInt_ok_iff n v out).mp h
  exact toBe_length n v

theorem putStr_length {w : Nat} {x out : Bytes} (h : putStr w x = .ok out) : out.length = w := by
  obtain ⟨hle, -, rfl⟩ := (putStr_ok_iff w x out).mp h
  exact padTo_length w x hle

/-- The type register holds the code of a type whole (R83). -/
theorem FrameType.ofCode_code (t : FrameType) : FrameType.ofCode (BitVec.ofNat 32 t.code).toNat = some t := by
  cases t <;> rfl

/-! ## Error registers -/

theorem Err.cause_legal (e : Err) :
    e.cause = 0 ∨ e.cause = 1 ∨ e.cause = 2 ∨ e.cause = 3 ∨ e.cause = 6 ∨ e.cause = 7 := by
  cases e <;> simp [Err.cause]

theorem Err.cause_ne_zero (e : Err) : e.cause ≠ 0 := by
  cases e <;> simp [Err.cause]

theorem Err.subcause_ne_zero (e : Err) : e.subcause ≠ 0 := by
  cases e with
  | cancelled sub => cases sub <;> decide
  | desynchronized sub => cases sub <;> decide
  | malformed sub => cases sub <;> decide
  | rejected sub => cases sub <;> decide
  | refused sub => cases sub <;> decide

/-- Sub-code 0 is never written with a cause (R262). -/
theorem Err.cause_sub (e : Err) (epos : BitVec 32) : (e.cause = 0 ↔ e.subcause = 0) ∧ (e.cause = 0 → epos = 0) :=
  ⟨⟨(absurd · (Err.cause_ne_zero e)), (absurd · (Err.subcause_ne_zero e))⟩, (absurd · (Err.cause_ne_zero e))⟩

namespace Machine

/-! ## Frames -/

theorem hdrEnc_length {ty toff sq se : Nat} {cr de out : Bytes} (h : hdrEnc ty toff cr de sq se = .ok out) :
    out.length = hlen := by
  simp only [hdrEnc, putAll_cons_ok_iff, putAll_nil, Except.ok.injEq] at h
  obtain ⟨_, _, h1, ⟨_, _, h2, ⟨_, _, h3, ⟨_, _, h4, ⟨_, _, h5, ⟨_, _, h6, rfl, rfl⟩, rfl⟩, rfl⟩, rfl⟩, rfl⟩, rfl⟩ := h
  simp [putUInt_length h1, putUInt_length h2, putStr_length h3, putStr_length h4, putUInt_length h5, putUInt_length h6, hlen]

theorem trlBody_length_ge {kid : Nat} {av out : Bytes} (h : trlBody kid av = .ok out) : 8 ≤ out.length := by
  simp only [trlBody, putAll_cons_ok_iff, putAll_nil, Except.ok.injEq] at h
  obtain ⟨_, _, h1, ⟨_, _, h2, ⟨_, _, -, rfl, rfl⟩, rfl⟩, rfl⟩ := h
  simp only [List.length_append, putUInt_length h1, putUInt_length h2]
  omega

/-- A frame has a header, a body byte, a trailer segment 1 and a checksum at least (R84). -/
theorem encodeFrame_length_ge {c : Cfg} {req : EncReq} {out : Bytes} (h : encodeFrame c req = .ok out) :
    53 ≤ out.length ∧ out.length ≤ c.txMax := by
  obtain ⟨_, body, hdr, trl, -, -, -, hbody, -, hhdr, htrl, rfl, hfits⟩ := (encodeFrame_ok_iff c req out).mp h
  refine ⟨?_, hfits⟩
  have hhdr' : hdr.length = 36 := hdrEnc_length hhdr
  have htrl' := trlBody_length_ge htrl
  simp only [List.length_append, toBe_length]
  omega

/-- What `HDRDEC` gives for the header of a complete frame is legal in the registers (R26, R161). -/
theorem hdrDec_legal {c : Cfg} {r : Regions} {hd : Header} (hr : CompleteFrame c r) (h : hdrDec r.hdr = .ok hd) :
    hd.toff.toNat = hlen + r.body.length ∧ hlen < hd.toff.toNat ∧ nameOk hd.creator = true ∧ nameOk hd.dest = true := by
  rw [hdrDec_eq r.hdr hr.hdr_length, headerChecks_ok_iff] at h
  obtain ⟨t, -, hoff, rfl⟩ := h
  have htoff : (BitVec.ofNat 32 (be32 r.hdr 4)).toNat = be32 r.hdr 4 := by simp
  exact ⟨htoff.trans hr.toff_eq, by rwa [htoff], nameOk_rstrip (slice_length_le ..), nameOk_rstrip (slice_length_le ..)⟩

/-- What `TRLDEC` gives for the trailer of a complete frame: a padded authentication value, and the checksum after it (R27). -/
theorem trlDec_legal {c : Cfg} {r : Regions} {toff : BitVec 32} {t : Trailer} (hr : CompleteFrame c r)
    (h : trlDec toff r.tr1 r.tr2 = .ok t) :
    t.authval.length = pad4 t.authsz.toNat ∧ r.tr2.length = t.authval.length + ckLen := by
  rw [trlDec_eq toff r.tr1 r.tr2 hr.tr1_length hr.tr2_length.ge] at h
  cases h
  have hlength : (slice r.tr2 0 (pad4 (be32 r.tr1 4))).length = pad4 (be32 r.tr1 4) :=
    slice_length _ _ _ (by rw [hr.tr2_length]; omega)
  exact ⟨by simp [hlength], by simp [hlength, hr.tr2_length]⟩

/-! ## Warnings -/

/-- The reserved bits of `WARN` (R33). -/
abbrev warnReserved : BitVec 32 := 0xFFFFFFF8#32

theorem or_and_eq_zero {x y m : BitVec 32} (hx : x &&& m = 0) (hy : y &&& m = 0) : (x ||| y) &&& m = 0 := by
  refine BitVec.eq_of_getLsbD_eq fun i _ => ?_
  have hxi := congrArg (BitVec.getLsbD · i) hx
  have hyi := congrArg (BitVec.getLsbD · i) hy
  simp only [BitVec.getLsbD_and] at hxi hyi
  simp only [BitVec.getLsbD_and, BitVec.getLsbD_or, Bool.and_or_distrib_right, hxi, hyi]
  exact Bool.or_self _

theorem warnIf_and_eq_zero {w m : BitVec 32} (h : w &&& m = 0) (b : Bool) : warnIf w b &&& m = 0 := by
  cases b
  · exact BitVec.zero_and
  · exact h

/-! ## Bodies -/

theorem asBody_ok {α : Type} {mk : α → Variant} {r : Res α} {b : Body} {o : Nat} (h : asBody mk r = .ok b o) :
    ∃ x, b = plainBody (mk x) := by
  obtain ⟨x, _, -, h⟩ := (Res.andThen_ok_iff ..).mp h
  cases h
  exact ⟨x, rfl⟩

/-- A body decoder gives a record of its own type and flags warnings of R33 alone (R28, R177). -/
theorem bodyDec_ok {c : Cfg} {realign : Bool} {ty : FrameType} {body : Bytes} {b : Body} {o : Nat}
    (h : bodyDec c realign ty body = .ok b o) : Variant.frameType b.v = ty ∧ b.warn &&& warnReserved = 0 := by
  cases ty with
  | data =>
    obtain ⟨x, _, -, h⟩ := (Res.andThen_ok_iff ..).mp h
    cases h
    exact ⟨rfl, or_and_eq_zero (warnIf_and_eq_zero (by decide) _) (warnIf_and_eq_zero (by decide) _)⟩
  | cd1Encapsulation => cases h
  | _ =>
    obtain ⟨x, rfl⟩ := asBody_ok h
    exact ⟨rfl, BitVec.zero_and⟩

/-! ## The invariant under the shared operations -/

section Operations

variable {c : Cfg} {s : State}

theorem Inv.after_raise (h : Inv c s) (e : Err) (pos : Nat) : Inv c (raise c .command e pos s) :=
  { h with
    cause_legal := Err.cause_legal e
    cause_sub := Err.cause_sub e _ }

theorem Inv.after_clearError (h : Inv c s) : Inv c (clearError s) :=
  { h with
    cause_legal := .inl rfl
    cause_sub := ⟨Iff.rfl, fun _ => rfl⟩ }

theorem Inv.after_checkCrc (h : Inv c s) (raw : Bytes) (hdecoded : s.decoded = true) : Inv c (checkCrc c raw s) :=
  { h with
    crc_decoded := fun _ => hdecoded
    crc_ok := fun _ => rfl }

/-- The flags of a decode, cleared. -/
theorem Inv.after_beginDecode (h : Inv c s) : Inv c (beginDecode s) :=
  { h.after_clearError with
    hdr_held := nofun
    hdr_legal := nofun
    decoded_hdr := nofun
    tag_eq := nofun
    auth_length := nofun
    crc_decoded := nofun
    crc_ok := nofun
    degraded_iff := by simp
    warn_reserved := by simp }

/-- A frame that no header register is valid for may be dropped (R179). -/
theorem Inv.drop_frame (h : Inv c s) (hhdr : s.hdrValid = false) : Inv c { s with rawValid := false, phase := .idle } :=
  { h with
    done_iff := ⟨nofun, nofun⟩
    held := nofun
    reading := trivial
    desync_not_waiting := fun _ => rfl
    hdr_held := by simp [hhdr] }

theorem Inv.decoded_of_hdrValid (h : Inv c s) (hhdr : s.hdrValid = false) : s.decoded = false := by
  by_contra hdecoded
  have hvalid := h.decoded_hdr (by simpa using hdecoded)
  rw [hhdr] at hvalid
  cases hvalid

theorem Inv.after_setRegions (h : Inv c s) (hhdr : s.hdrValid = false) {r : Regions} (hr : CompleteFrame c r) :
    Inv c (setRegions r s) :=
  { h with
    mem_wf := by
      obtain ⟨h0, h1, h2, h3⟩ := setRegions_wf r s
      obtain ⟨-, -, -, -, htx⟩ := h.mem_wf
      exact ⟨h0, h1, h2, h3, htx⟩
    done_iff := ⟨fun _ => rfl, fun _ => rfl⟩
    held := fun _ => ⟨r, heldRegions_setRegions r s hr.hdr_length hr.tr1_length, hr⟩
    reading := trivial
    desync_not_waiting := fun _ => rfl
    hdr_held := fun _ => rfl
    hdr_legal := by simp [hhdr]
    auth_length := by simp [h.decoded_of_hdrValid hhdr] }

theorem Inv.after_setHeader (h : Inv c s) (hraw : s.rawValid = true) (hdecoded : s.decoded = false) {hd : Header}
    (htoff : hd.toff.toNat = hlen + s.bodyLen) (hlt : hlen < hd.toff.toNat) (hcreator : nameOk hd.creator = true)
    (hdest : nameOk hd.dest = true) : Inv c (setHeader hd s) :=
  { h with
    hdr_held := fun _ => hraw
    hdr_legal := fun _ => ⟨Option.ne_none_iff_exists'.mpr ⟨hd.ty, FrameType.ofCode_code hd.ty⟩, htoff, hlt, hcreator, hdest⟩
    decoded_hdr := fun _ => rfl
    tag_eq := by simp [hdecoded] }

theorem Inv.after_setBody (h : Inv c s) (hdecoded : s.decoded = false) {b : Body} (hwarn : b.warn &&& warnReserved = 0)
    (consumed len : Nat) : Inv c (setBody b consumed len s) :=
  { h with
    tag_eq := by simp [hdecoded]
    degraded_iff := by simp
    warn_reserved := or_and_eq_zero (or_and_eq_zero h.warn_reserved hwarn) (warnIf_and_eq_zero (by decide) _) }

theorem Inv.after_setTrailer (h : Inv c s) (hhdr : s.hdrValid = true)
    (htag : FrameType.ofCode s.hType.toNat = some (Variant.frameType s.v)) {t : Trailer}
    (hpad : t.authval.length = pad4 t.authsz.toNat) (htr2 : s.tr2Len = t.authval.length + ckLen) :
    Inv c (setTrailer t s) :=
  { h with
    decoded_hdr := fun _ => hhdr
    tag_eq := fun _ => htag
    auth_length := fun _ => ⟨hpad, htr2⟩
    crc_decoded := fun _ => rfl }

/-- The decode of a held frame, stage by stage (R178). -/
theorem Inv.after_decodeRegionsHeld (h : Inv c s) (hraw : s.rawValid = true) {r : Regions} (hheld : heldRegions s = some r)
    (hdecoded : s.decoded = false) : Inv c (decodeRegionsHeld c r s) := by
  obtain ⟨r', hheld', hr⟩ := h.held hraw
  obtain rfl : r = r' := Option.some.inj (hheld.symm.trans hheld')
  obtain ⟨-, hbody, -, htr2⟩ := (heldRegions_eq_some_iff s r).mp hheld
  have hbodyLen := Memory.load_length _ _ _ _ hbody
  have htr2Len := Memory.load_length _ _ _ _ htr2
  have hheader {hd : Header} (hok : hdrDec r.hdr = .ok hd) : Inv c (setHeader hd s) := by
    obtain ⟨htoff, hlt, hcreator, hdest⟩ := hdrDec_legal hr hok
    exact h.after_setHeader hraw hdecoded (by rw [htoff, hbodyLen]) hlt hcreator hdest
  unfold decodeRegionsHeld
  obtain ⟨sub, pos, -, he⟩ | ⟨hd, sub, pos, hok, -, he⟩ | ⟨hd, b, k, sub, pos, hok, hb, -, he⟩ |
    ⟨hd, b, k, t, hok, hb, ht, he⟩ := runDecode_cases c (hdrDec r.hdr) (fun ty => bodyDec c s.realign ty r.body)
      r.body.length (fun toff => trlDec toff r.tr1 r.tr2) s <;> rw [he]
  · exact h.after_raise _ _
  · exact (hheader hok).after_raise _ _
  · obtain ⟨-, hwarn⟩ := bodyDec_ok hb
    exact ((hheader hok).after_setBody hdecoded hwarn _ _).after_raise _ _
  · obtain ⟨htype, hwarn⟩ := bodyDec_ok hb
    obtain ⟨hpad, hlength⟩ := trlDec_legal hr ht
    refine ((hheader hok).after_setBody hdecoded hwarn _ _).after_setTrailer rfl ?_ hpad ?_
    · exact (FrameType.ofCode_code hd.ty).trans (congrArg some htype.symm)
    · simpa [htr2Len] using hlength

theorem Inv.after_verifyDecoded (h : Inv c s) (r : Regions) : Inv c (verifyDecoded c r s) := by
  obtain ⟨hdecoded, he⟩ | ⟨-, he⟩ := verifyDecoded_cases c r s <;> rw [he]
  · exact h.after_clearError.after_checkCrc _ hdecoded
  · exact h

/-- The regions that `DECODEBUF` cuts are those of a complete frame (R179). -/
theorem completeFrame_of_splitBuf {buf : Bytes} {r : Regions} (h : splitBuf c buf = .ok r) : CompleteFrame c r := by
  obtain ⟨hhdr, hlt, hfits, htr1, hauth, htr2, rfl⟩ := (splitBuf_ok_iff c buf r).mp h
  have hbody : (slice buf hlen (be32 buf 4 - hlen)).length = be32 buf 4 - hlen := slice_length _ _ _ (by omega)
  have htoff : be32 (slice buf 0 hlen) 4 = be32 buf 4 := by
    rw [be32, slice_slice buf (by decide), Nat.zero_add, be32]
  have hsize : be32 (slice buf (be32 buf 4) tr1Len) 4 = be32 buf (be32 buf 4 + 4) := by
    rw [be32, slice_slice buf (by decide), ← be32]
  refine ⟨slice_length _ _ _ (by omega), ?_, ?_, ?_, slice_length _ _ _ htr1, ?_, ?_⟩ <;> simp only [regionsAt]
  · omega
  · omega
  · omega
  · rw [hsize]
    exact slice_length _ _ _ (by simp only [tr1Len, ckLen]; omega)
  · rwa [hsize]

theorem Inv.after_decodeBuf (h : Inv c s) (buf : Bytes) : Inv c (decodeBuf c buf s) := by
  obtain ⟨sub, pos, -, he⟩ | ⟨r, hsplit, he⟩ := decodeBuf_cases c buf s <;> rw [he]
  · exact (h.after_beginDecode.after_raise _ _).drop_frame rfl
  · have hr : CompleteFrame c r := completeFrame_of_splitBuf hsplit
    have hset : Inv c (setRegions r (beginDecodebuf s)) := h.after_beginDecode.after_setRegions rfl hr
    exact (hset.after_decodeRegionsHeld rfl (heldRegions_setRegions r _ hr.hdr_length hr.tr1_length) rfl).after_verifyDecoded r

theorem Inv.after_encodeReq (h : Inv c s) (req : EncReq) : Inv c (encodeReq c req s) := by
  have hbegin : Inv c (beginEncode s) :=
    { h.after_clearError with
      crc_decoded := nofun
      crc_ok := nofun
      tx := nofun }
  obtain ⟨e, -, he⟩ | ⟨out, hok, he⟩ := encodeReq_cases c req s <;> rw [he]
  · exact hbegin.after_raise _ _
  · obtain ⟨hge, hle⟩ := encodeFrame_length_ge hok
    exact { hbegin with
      mem_wf := by
        obtain ⟨h0, h1, h2, h3, -⟩ := hbegin.mem_wf
        exact ⟨h0, h1, h2, h3, setTx_wf out _⟩
      tx := fun _ => ⟨hge, hle, out, Memory.load_ofBytes out⟩ }

theorem Inv.after_startRead (h : Inv c s) (hsync : s.desync = false) : Inv c (startRead s) :=
  { h.after_clearError with
    done_iff := ⟨nofun, nofun⟩
    held := nofun
    reading := rfl
    desync_not_waiting := by simp [hsync]
    hdr_held := nofun
    hdr_legal := nofun
    decoded_hdr := nofun
    tag_eq := nofun
    auth_length := nofun
    crc_decoded := nofun
    crc_ok := nofun }

/-! ## The invariant under a poll step -/

/-- While a frame is read no frame is held and no decode register is valid (R21, R26, R28). -/
theorem Inv.flags_of_waiting (h : Inv c s) (hphase : s.phase.waiting = true) :
    s.rawValid = false ∧ s.hdrValid = false ∧ s.decoded = false ∧ s.desync = false := by
  have hraw : s.rawValid = false := by
    by_contra hraw
    have hdone := h.done_iff.mpr (by simpa using hraw)
    simp [hdone, Phase.waiting] at hphase
  have hhdr : s.hdrValid = false := by
    by_contra hhdr
    have hheld := h.hdr_held (by simpa using hhdr)
    simp [hraw] at hheld
  refine ⟨hraw, hhdr, h.decoded_of_hdrValid hhdr, ?_⟩
  by_contra hdesync
  have hnot := h.desync_not_waiting (by simpa using hdesync)
  simp [hphase] at hnot

/-- An error of the streamer ends the read, whatever it has stored (R270). -/
theorem Inv.after_abort (h : Inv c s) (hphase : s.phase.waiting = true) (e : Err) (pos : Nat) :
    Inv c (raise c .streamer e pos s) := by
  obtain ⟨hraw, hhdr, -, -⟩ := h.flags_of_waiting hphase
  exact { h with
    done_iff := ⟨nofun, nofun⟩
    held := nofun
    reading := trivial
    desync_not_waiting := fun _ => rfl
    hdr_held := by simp [hhdr]
    cause_legal := Err.cause_legal e
    cause_sub := Err.cause_sub e _ }

theorem Inv.fifo_drop_le (h : Inv c s) (n : Nat) : (s.fifo.drop n).length ≤ c.fifoDepth := by
  have hbound := h.fifo_bound
  rw [List.length_drop]
  omega

/-- Outside a read `SPOS` is free (R22). -/
theorem Inv.after_consume (h : Inv c s) (hphase : s.phase = .idle) (d : Bytes) : Inv c (consume d s) :=
  { h with
    reading := by simp [ReadProgress, hphase]
    fifo_bound := h.fifo_drop_le _ }

theorem Inv.with_hdrBuf (h : Inv c s) (hphase : s.phase = .idle) (d : Bytes) : Inv c { s with hdrBuf := Memory.ofBytes d } := by
  have hnone : s.rawValid ≠ true := fun hraw => by simpa [hphase] using h.done_iff.mpr hraw
  obtain ⟨-, hbody, htr1, htr2, htx⟩ := h.mem_wf
  exact { h with
    mem_wf := ⟨Memory.wf_ofBytes d, hbody, htr1, htr2, htx⟩
    held := fun hraw => absurd hraw hnone
    reading := by simp [ReadProgress, hphase] }

theorem Inv.with_tr1Buf (h : Inv c s) (hphase : s.phase = .idle) (d : Bytes) : Inv c { s with tr1Buf := Memory.ofBytes d } := by
  have hnone : s.rawValid ≠ true := fun hraw => by simpa [hphase] using h.done_iff.mpr hraw
  obtain ⟨hhdr, hbody, -, htr2, htx⟩ := h.mem_wf
  exact { h with
    mem_wf := ⟨hhdr, hbody, Memory.wf_ofBytes d, htr2, htx⟩
    held := fun hraw => absurd hraw hnone
    reading := by simp [ReadProgress, hphase] }

theorem Inv.after_storeHeader (h : Inv c s) (hphase : s.phase = .wHdr) {d : Bytes} (hlength : d.length = hlen) :
    Inv c (storeHeader c d (consume d s)) := by
  have hwaiting : s.phase.waiting = true := by rw [hphase]; rfl
  have habort (sub : MalformedSub) : Inv c (fatalMalformed c sub 4 { consume d s with hdrBuf := Memory.ofBytes d }) :=
    ((h.after_abort hwaiting (.malformed sub) 4).after_consume rfl d).with_hdrBuf rfl d
  obtain ⟨-, he⟩ | ⟨-, -, he⟩ | ⟨hlt, hfits, he⟩ := storeHeader_cases c d (consume d s) <;> rw [he]
  · exact habort .badToff
  · exact habort .tooLarge
  · obtain ⟨hraw, hhdr, hdecoded, hsync⟩ := h.flags_of_waiting hwaiting
    obtain ⟨-, hbody, htr1, htr2, htx⟩ := h.mem_wf
    have hstart : s.spos = s.fstart := by simpa only [ReadProgress, hphase] using h.reading
    have hload : Memory.load (Memory.ofBytes d) 0 hlen = some d := by rw [← hlength]; exact Memory.load_ofBytes d
    exact { h with
      mem_wf := ⟨Memory.wf_ofBytes d, hbody, htr1, htr2, htx⟩
      done_iff := by simp [hraw]
      held := by simp [hraw]
      reading := ⟨d, hload, hlt, hfits, by simp [hstart, hlength]⟩
      desync_not_waiting := by simp [hsync]
      fifo_bound := h.fifo_drop_le _ }

theorem Inv.after_storeBody (h : Inv c s) (hphase : s.phase = .wBody) {d : Bytes} {toff : Nat}
    (htoff : storedToff s = some toff) (hlength : d.length = toff - hlen) : Inv c (storeBody d (consume d s)) := by
  obtain ⟨hraw, hhdr, hdecoded, hsync⟩ := h.flags_of_waiting (by rw [hphase]; rfl)
  obtain ⟨hdrwf, -, htr1, htr2, htx⟩ := h.mem_wf
  have hreading := h.reading
  simp only [ReadProgress, hphase] at hreading
  obtain ⟨b, hload, hlt, hfits, hpos⟩ := hreading
  obtain rfl : be32 b 4 = toff := Option.some.inj ((storedToff_of_load hload).symm.trans htoff)
  have hsum : be32 b 4 = hlen + d.length := by omega
  exact { h with
    mem_wf := ⟨hdrwf, Memory.wf_ofBytes d, htr1, htr2, htx⟩
    done_iff := by simp [hraw]
    held := by simp [hraw]
    reading := ⟨b, d, hload, Memory.load_ofBytes d, hsum, by simp only [storeBody]; omega, by simp only [storeBody]; omega,
      by simp [hpos, hsum, BitVec.ofNat_add, BitVec.add_assoc]⟩
    desync_not_waiting := by simp [hsync]
    hdr_legal := by simp [hhdr]
    fifo_bound := h.fifo_drop_le _ }

theorem Inv.after_storeTr1 (h : Inv c s) (hphase : s.phase = .wTr1) {d : Bytes} (toff : Nat) (hlength : d.length = tr1Len) :
    Inv c (storeTr1 c toff d (consume d s)) := by
  have hwaiting : s.phase.waiting = true := by rw [hphase]; rfl
  obtain ⟨-, he⟩ | ⟨hfits, he⟩ := storeTr1_cases c toff d (consume d s) <;> rw [he]
  · exact ((h.after_abort hwaiting (.malformed .tooLarge) (toff + 4)).after_consume rfl d).with_tr1Buf rfl d
  · obtain ⟨hraw, hhdr, hdecoded, hsync⟩ := h.flags_of_waiting hwaiting
    obtain ⟨hdrwf, hbody, -, htr2, htx⟩ := h.mem_wf
    have hreading := h.reading
    simp only [ReadProgress, hphase] at hreading
    obtain ⟨b, body, hload, hload', hsum, hlt, hle, hpos⟩ := hreading
    have hload1 : Memory.load (Memory.ofBytes d) 0 tr1Len = some d := by rw [← hlength]; exact Memory.load_ofBytes d
    exact { h with
      mem_wf := ⟨hdrwf, hbody, Memory.wf_ofBytes d, htr2, htx⟩
      done_iff := by simp [hraw]
      held := by simp [hraw]
      reading := ⟨b, body, d, hload, hload', hsum, hlt, hle, hload1, hfits,
        by simp [hpos, hlength, BitVec.ofNat_add, BitVec.add_assoc]⟩
      desync_not_waiting := by simp [hsync]
      fifo_bound := h.fifo_drop_le _ }

theorem Inv.after_storeTr2 (h : Inv c s) (hphase : s.phase = .wTr2) {d asz : Bytes}
    (hasz : Memory.load s.tr1Buf 4 4 = some asz) (hlength : d.length = pad4 (beNat asz) + ckLen) :
    Inv c (storeTr2 d (consume d s)) := by
  obtain ⟨hraw, hhdr, hdecoded, hsync⟩ := h.flags_of_waiting (by rw [hphase]; rfl)
  obtain ⟨hdrwf, hbody, htr1, -, htx⟩ := h.mem_wf
  have hreading := h.reading
  simp only [ReadProgress, hphase] at hreading
  obtain ⟨b, body, t, hload, hload', hsum, hlt, hle, hload1, hfits, -⟩ := hreading
  have hsize : beNat asz = be32 t 4 := by
    have hword := Memory.load_slice s.tr1Buf 0 tr1Len t hload1 4 4 (by decide)
    rw [Nat.zero_add, hasz] at hword
    rw [Option.some.inj hword, be32]
  have hbodyLen := Memory.load_length _ _ _ _ hload'
  have hframe : CompleteFrame c { hdr := b, body := body, tr1 := t, tr2 := d } :=
    { hdr_length := Memory.load_length _ _ _ _ hload
      body_pos := hbodyLen ▸ hlt
      toff_eq := hbodyLen ▸ hsum
      body_fits := hbodyLen ▸ hle
      tr1_length := Memory.load_length _ _ _ _ hload1
      tr2_length := hsize ▸ hlength
      auth_fits := hfits }
  exact { h with
    mem_wf := ⟨hdrwf, hbody, htr1, Memory.wf_ofBytes d, htx⟩
    done_iff := ⟨fun _ => rfl, fun _ => rfl⟩
    held := fun _ => ⟨{ hdr := b, body := body, tr1 := t, tr2 := d },
      (heldRegions_eq_some_iff _ _).mpr ⟨hload, hload', hload1, Memory.load_ofBytes d⟩, hframe⟩
    reading := trivial
    desync_not_waiting := fun _ => rfl
    hdr_held := fun _ => rfl
    auth_length := by simp [hdecoded]
    fifo_bound := h.fifo_drop_le _ }

end Operations

/-! ## The invariant under a step -/

section Moves

variable {s t : State}

theorem Inv.after_poll (hinv : Inv Config.cfg s) (h : PollEffect s t) : Inv Config.cfg t := by
  cases h with
  | unchanged => exact hinv
  | cutOff e pos hphase => exact hinv.after_abort hphase e pos
  | shortRead d hphase _ =>
    exact (hinv.after_abort hphase (.desynchronized .shortRead) (frameOffset (consume d s))).after_consume rfl d
  | header d hphase _ hlength => exact hinv.after_storeHeader hphase hlength
  | body d toff hphase _ htoff hlength => exact hinv.after_storeBody hphase htoff hlength
  | tr1 d toff hphase _ _ hlength => exact hinv.after_storeTr1 hphase toff hlength
  | tr2 d asz hphase _ hasz hlength => exact hinv.after_storeTr2 hphase hasz hlength

theorem inv_reset (c : Cfg) : Inv c State.reset where
  mem_wf := Memory.wf_reset
  done_iff := ⟨nofun, nofun⟩
  held := nofun
  reading := trivial
  desync_not_waiting := nofun
  hdr_held := nofun
  hdr_legal := nofun
  decoded_hdr := nofun
  tag_eq := nofun
  auth_length := nofun
  crc_decoded := nofun
  crc_ok := nofun
  degraded_iff := ⟨nofun, fun h => absurd rfl h⟩
  cfg_reserved := by decide
  warn_reserved := by decide
  cause_legal := .inl rfl
  cause_sub := ⟨Iff.rfl, fun _ => rfl⟩
  tx := nofun
  fifo_bound := Nat.zero_le _

theorem Inv.after_command {c : Command} (hinv : Inv Config.cfg s) (h : CommandEffect c s t) : Inv Config.cfg t := by
  cases h with
  | nop => exact hinv
  | refused sub => exact hinv.after_raise (.refused sub) 0
  | rdframe _ _ hsync => exact hinv.after_startRead hsync
  | decode r hraw hheld => exact hinv.after_beginDecode.after_decodeRegionsHeld hraw hheld rfl
  | verify r hdecoded => exact hinv.after_clearError.after_checkCrc _ hdecoded
  | encode _ => exact hinv.after_encodeReq c.req
  | decodebuf _ _ => exact hinv.after_decodeBuf c.buf
  | reset _ => exact { inv_reset Config.cfg with }

theorem Inv.after_arrive {c : Cfg} (hinv : Inv c s) (n : Nat) : Inv c (arrive c n s) :=
  { hinv with
    fifo_bound := by
      have hbound := hinv.fifo_bound
      simp only [arrive, List.length_append, List.length_take]
      omega }

theorem Inv.after_csrWrite {c : Cfg} (hinv : Inv c s) (n : Nat) (v : BitVec 32) : Inv c (csrWrite n v s) := by
  obtain he | ⟨-, -, he⟩ := csrWrite_frame n v s <;> rw [he]
  · exact hinv
  · exact { hinv with cfg_reserved := by rw [BitVec.and_assoc]; exact BitVec.and_zero }

end Moves

end Machine

namespace Proofs

open Sys2Proof.Machine

/-- Settles O47, field by field. -/
theorem resetMeetsTheInvariant : Obligations.ResetMeetsTheInvariant := inv_reset Config.cfg

/-- Settles O46, move by move: each move is one of the operations above. -/
theorem stepKeepsTheInvariant : Obligations.StepKeepsTheInvariant := by
  intro s t hinv hstep
  cases step_effect hstep with
  | poll rest _ h => exact (hinv.with_inputs rest).after_poll h
  | command c rest _ h => exact (hinv.with_inputs rest).after_command h
  | arrive n rest _ => exact (hinv.with_inputs rest).after_arrive n
  | csrRead n rest _ => exact { hinv.with_inputs rest with }
  | csrWrite n v rest _ => exact (hinv.with_inputs rest).after_csrWrite n v
  | readResult x y rest _ => exact { hinv.with_inputs rest with }

end Proofs

end Sys2Proof

/-! SUPPORT. A complete frame's bytes are cut into its regions again, whatever follows them (R51, R80, R84). -/

namespace Sys2Proof

/-- A word of a region, read where the region stands. -/
theorem be32_of_eq_append {b pre out suf : Bytes} {o p : Nat} (hb : b = pre ++ out ++ suf) (ho : pre.length + p = o)
    (hp : p + 4 ≤ out.length) : be32 b o = be32 out p := by
  subst hb ho
  have hdrop : (pre ++ (out ++ suf)).drop (pre.length + p) = out.drop p ++ suf := by
    rw [List.drop_length_add_append, List.drop_append_of_le_length (by omega)]
  have hword : slice (pre ++ out ++ suf) (pre.length + p) 4 = slice out p 4 := by
    rw [slice, List.append_assoc, hdrop, List.take_append_of_le_length (by rw [List.length_drop]; omega), slice]
  rw [be32, hword, be32]

/-- Each region stands where `trailer_offset` and the padded authentication value place it (R51). -/
theorem regionsAt_bytes_append {r : Regions} (rest : Bytes) {n : Nat} (hhdr : r.hdr.length = hlen)
    (htr1 : r.tr1.length = tr1Len) (htr2 : r.tr2.length = n + ckLen) :
    regionsAt (r.bytes ++ rest) (hlen + r.body.length) n = r := by
  have hh : slice (r.bytes ++ rest) 0 hlen = r.hdr :=
    slice_of_eq_append (pre := []) (suf := r.body ++ r.tr1 ++ r.tr2 ++ rest) (by simp [Regions.bytes]) rfl hhdr
  have hb : slice (r.bytes ++ rest) hlen r.body.length = r.body :=
    slice_of_eq_append (pre := r.hdr) (suf := r.tr1 ++ r.tr2 ++ rest) (by simp [Regions.bytes]) hhdr rfl
  have h1 : slice (r.bytes ++ rest) (hlen + r.body.length) tr1Len = r.tr1 :=
    slice_of_eq_append (pre := r.hdr ++ r.body) (suf := r.tr2 ++ rest) (by simp [Regions.bytes]) (by simp [hhdr]) htr1
  have h2 : slice (r.bytes ++ rest) (hlen + r.body.length + tr1Len) (n + ckLen) = r.tr2 :=
    slice_of_eq_append (pre := r.hdr ++ r.body ++ r.tr1) (suf := rest) (by simp [Regions.bytes])
      (by simp [hhdr, htr1]; omega) htr2
  simp only [regionsAt, Nat.add_sub_cancel_left, hh, hb, h1, h2]

/-- The bytes of regions whose lengths agree with their own length fields are cut into these regions again. -/
theorem splitFrame_bytes_append {r : Regions} (rest : Bytes) (hhdr : r.hdr.length = hlen)
    (htoff : be32 r.hdr 4 = hlen + r.body.length) (htr1 : r.tr1.length = tr1Len)
    (htr2 : r.tr2.length = pad4 (be32 r.tr1 4) + ckLen) : splitFrame (r.bytes ++ rest) = .ok (r, rest) := by
  have hlength : r.bytes.length = hlen + r.body.length + tr1Len + pad4 (be32 r.tr1 4) + ckLen := by
    simp only [Regions.bytes, List.length_append, hhdr, htr1, htr2, Nat.add_assoc]
  have hword : be32 (r.bytes ++ rest) 4 = hlen + r.body.length :=
    htoff ▸ be32_of_eq_append (pre := []) (suf := r.body ++ r.tr1 ++ r.tr2 ++ rest) (by simp [Regions.bytes]) rfl
      (by rw [hhdr]; decide)
  have hsize : be32 (r.bytes ++ rest) (hlen + r.body.length + 4) = be32 r.tr1 4 :=
    be32_of_eq_append (pre := r.hdr ++ r.body) (suf := r.tr2 ++ rest) (by simp [Regions.bytes]) (by simp [hhdr]) htr1.ge
  have hfits : (r.bytes ++ rest).length = hlen + r.body.length + tr1Len + pad4 (be32 r.tr1 4) + ckLen + rest.length := by
    rw [List.length_append, hlength]
  have hmax : max (hlen + r.body.length) hlen = hlen + r.body.length := Nat.max_eq_left (Nat.le_add_right _ _)
  simp only [splitFrame, hword, hmax, hsize]
  rw [if_neg (by omega), if_neg (by omega), if_neg (by omega), regionsAt_bytes_append rest hhdr htr1 htr2, ← hlength,
    List.drop_left]

/-- The lengths of a well-formed frame's regions are those its own length fields give (R51, R82, R84). -/
theorem Frame.regions_lengths (t : FrameType) {f : Frame} (hwf : f.wellFormed = true) :
    (f.regions t).hdr.length = hlen ∧ be32 (f.regions t).hdr 4 = hlen + (f.regions t).body.length
      ∧ (f.regions t).tr1.length = tr1Len
      ∧ (f.regions t).tr2.length = pad4 (be32 (f.regions t).tr1 4) + ckLen := by
  obtain ⟨hoffset, -, -, -, -⟩ := f.wellFormed_iff.mp hwf
  obtain ⟨hhdr, htr1, htr2, -⟩ := (decodeRegions_ok_iff _ _).mp (decodeRegions_regions t hwf)
  refine ⟨hhdr, ?_, htr1, htr2⟩
  rw [f.be32_hdr_toff t]
  simpa [offsetOk, regions] using hoffset

end Sys2Proof

namespace Sys2Proof.Proofs

/-- Settles O2: the bytes are cut into the frame's regions by their own length fields, and the regions decode to the frame. -/
theorem frameBytesDecodeBack : Obligations.FrameBytesDecodeBack := by
  intro t f rest hwf
  obtain ⟨hhdr, htoff, htr1, htr2⟩ := Frame.regions_lengths t hwf
  simp only [decodeFrame, splitFrame_bytes_append rest hhdr htoff htr1 htr2, decodeRegions_regions t hwf]

end Sys2Proof.Proofs

/-! SUPPORT. Reads that do not fit, and strings and variable fields read back from any surroundings (R60, R110, R111, R126,
R127, R132, R133). -/

namespace Sys2Proof

/-! ## Reads that fit and reads that do not -/

/-- `need` passes or fails at the cursor, and nothing else (R60, R111). -/
theorem need_fail_iff {α : Type} (b : Bytes) (o n : Nat) (v : α) (o' : Nat) (sub : MalformedSub) (p : Nat) :
    need b o n (.ok v o') = .fail sub p ↔ b.length < o + n ∧ sub = .shortField ∧ p = o := by
  unfold need
  split
  · simp; omega
  · simp [eq_comm]; omega

theorem getElem?_slice {i n : Nat} (b : Bytes) (o : Nat) (hi : i < n) : (slice b o n)[i]? = b[o + i]? := by
  simp [slice, hi]

/-- `GETVAR` on a prefix that fits and a value that does not (R132). -/
theorem getVar_of_short_value {b : Bytes} {o : Nat} (hprefix : o + 4 ≤ b.length)
    (hshort : b.length < o + 4 + pad4 (be32 b o)) : getVar b o = .fail .shortField (o + 4) := by
  have hcount : getU32 b o = .ok (be32 b o) (o + 4) := (getUInt_ok_iff ..).mpr ⟨hprefix, rfl, rfl⟩
  rw [getVar, hcount]
  exact (need_fail_iff ..).mpr ⟨hshort, rfl, rfl⟩

/-- `GETVAR` on a prefix that does not fit (R132). -/
theorem getVar_of_short_prefix {b : Bytes} {o : Nat} (hshort : b.length < o + 4) : getVar b o = .fail .shortField o :=
  (Res.andThen_fail_iff ..).mpr (.inl ((need_fail_iff ..).mpr ⟨hshort, rfl, rfl⟩))

/-! ## Strings -/

theorem putStr_of_fits {w : Nat} {x : Bytes} (hlength : x.length ≤ w) (hascii : Claims.Ascii x) :
    putStr w x = .ok (padTo w x) := (putStr_ok_iff ..).mpr ⟨hlength, hascii, rfl⟩

theorem putStr_of_long {w : Nat} {x : Bytes} (h : w < x.length) : putStr w x = .error .strTooLong := if_pos h

theorem putStr_of_not_ascii {w : Nat} {x : Bytes} (hlength : x.length ≤ w) (hascii : ¬ Claims.Ascii x) :
    putStr w x = .error .strBadChar := by
  rw [putStr, if_neg (Nat.not_lt.mpr hlength), if_neg]
  simpa [Claims.Ascii] using hascii

/-- An ASCII string does not end in `0x00`, so the right-strip gives it back from its padding (R126, R127). -/
theorem rstrip_padTo_of_ascii (w : Nat) {x : Bytes} (hascii : Claims.Ascii x) : rstrip (padTo w x) = x := by
  refine rstrip_append_zeros _ fun hlast => ?_
  obtain ⟨hpos, -⟩ := hascii 0 (List.mem_of_getLast? hlast)
  exact absurd hpos (by decide)

theorem getStr_append_padTo {w : Nat} {x : Bytes} (pre suf : Bytes) (hlength : x.length ≤ w) (hascii : Claims.Ascii x) :
    getStr w (pre ++ padTo w x ++ suf) pre.length = .ok x (pre.length + w) := by
  have hout : (padTo w x).length = w := padTo_length w x hlength
  refine (getStr_ok_iff ..).mpr ⟨by simp [hout], ?_, rfl⟩
  rw [slice_of_eq_append rfl rfl hout, rstrip_padTo_of_ascii w hascii]

/-! ## Variable fields -/

/-- What stands in the padding of a variable field is not examined (R132). -/
theorem getVar_append_padding {v padding : Bytes} (pre suf : Bytes) (hv : v.length < 2 ^ 32)
    (hpadding : padding.length = padlen v.length) :
    getVar (pre ++ (toBe 4 v.length ++ v ++ padding) ++ suf) pre.length = .ok v (pre.length + 4 + pad4 v.length) := by
  have hcount : be32 (pre ++ (toBe 4 v.length ++ v ++ padding) ++ suf) pre.length = v.length := by
    rw [be32, slice_of_eq_append (pre := pre) (out := toBe 4 v.length) (suf := v ++ padding ++ suf) (by simp) rfl (by simp),
      beNat_toBe, Nat.mod_eq_of_lt (by omega)]
  have hvalue : slice (pre ++ (toBe 4 v.length ++ v ++ padding) ++ suf) (pre.length + 4) v.length = v :=
    slice_of_eq_append (pre := pre ++ toBe 4 v.length) (suf := padding ++ suf) (by simp) (by simp) rfl
  have hfits : pre.length + 4 + pad4 v.length ≤ (pre ++ (toBe 4 v.length ++ v ++ padding) ++ suf).length := by
    have hpad := add_padlen v.length
    simp only [List.length_append, toBe_length, hpadding]
    omega
  refine (getVar_ok_iff ..).mpr ?_
  rw [hcount]
  exact ⟨by omega, hfits, hvalue.symm, rfl⟩

end Sys2Proof

namespace Sys2Proof.Proofs

/-- Settles O7: every read is `need` over a slice, and `GETVAR` is `need` for its prefix and again for value and padding. -/
theorem fieldsThatDoNotFitFail : Obligations.FieldsThatDoNotFitFail := by
  intro b o n
  have hfail {α : Type} (v : α) : need b o n (.ok v (o + n)) = .fail .shortField o ↔ b.length < o + n := by
    simp only [need_fail_iff, and_true]
  refine ⟨hfail _, hfail _, hfail _, hfail _, fun sub p h => ((need_fail_iff ..).mp h).2, fun v o' h => ?_, fun v o' h => ?_,
    getVar_of_short_prefix, getVar_of_short_value, fun hfits => ?_⟩
  · obtain ⟨hfits, -, rfl⟩ := (getUInt_ok_iff ..).mp h
    exact ⟨rfl, hfits⟩
  · obtain ⟨hfits, rfl, rfl⟩ := (getBytes_ok_iff ..).mp h
    exact ⟨rfl, hfits, slice_length b o n hfits, fun i => getElem?_slice b o⟩
  · have hpad := le_pad4 (be32 b o)
    exact ⟨slice b (o + 4) (be32 b o), (getVar_ok_iff ..).mpr ⟨by omega, hfits, rfl, rfl⟩, slice_length _ _ _ (by omega),
      fun i => getElem?_slice b (o + 4)⟩

/-- Settles O9: an ASCII string survives the right-strip, and the value of a variable field stands between its prefix and
its padding. -/
theorem stringsAndVariableFieldsRoundTrip : Obligations.StringsAndVariableFieldsRoundTrip := by
  refine ⟨fun w x pre suf hlength hascii => ?_, fun _ _ => putStr_of_long, fun _ _ => putStr_of_not_ascii,
    fun v pre suf hv => ?_, fun _ _ pre suf => getVar_append_padding pre suf⟩
  · exact ⟨padTo w x, putStr_of_fits hlength hascii, padTo_length w x hlength, getStr_append_padTo pre suf hlength hascii⟩
  · have hput : putVar v = .ok (toBe 4 v.length ++ v ++ zeros (padlen v.length)) := (putVar_ok_iff ..).mpr ⟨hv, rfl⟩
    refine ⟨_, hput, ?_⟩
    rw [getVar_append_padding pre suf hv (zeros_length _), putVar_length hput, Nat.add_assoc]

end Sys2Proof.Proofs

/-! SUPPORT. A poll step whose awaited region has arrived, and the four of them that read a complete frame (R53, R143, R145,
R148, R153). -/

namespace Sys2Proof.Machine

open Sys2Proof.Claims

/-! ## One poll step with the awaited bytes there -/

/-- Only a waiting phase awaits a region (R142). -/
theorem waiting_of_needLen {s : State} {n : Nat} (h : needLen s = some n) : s.phase.waiting = true := by
  cases hp : s.phase with
  | idle => simp [needLen, hp] at h
  | done => simp [needLen, hp] at h
  | _ => rfl

/-- With the awaited bytes there the levels are not looked at (R143). -/
theorem pollStep_of_available (c : Cfg) {s : State} {n : Nat} (halt intr : Bool) (short : Option Nat) (hn : needLen s = some n)
    (havail : n ≤ s.fifo.length) : pollStep c halt intr short s = pollRead c n short s := by
  simp only [pollStep, waiting_of_needLen hn, hn, streamAvail, havail, if_true]

/-- A transport that returns fewer bytes than asked for ends the read (R53, R148). -/
theorem pollRead_of_short (c : Cfg) {s : State} {n k : Nat} (havail : n ≤ s.fifo.length) (hk : k < n) :
    pollRead c n (some k) s = .next (fatalDesync c .shortRead (consume (s.fifo.take k) s)) := by
  have hread : streamRead n (some k) s = s.fifo.take k := by rw [streamRead, Nat.min_eq_right hk.le]
  have hlength : (s.fifo.take k).length < n := by rw [List.length_take]; omega
  rw [pollRead, hread, if_pos hlength]

/-- A transport that returns what is asked for has the region stored (R145). -/
theorem pollRead_of_prefix (c : Cfg) {s : State} {d tail : Bytes} (hfifo : s.fifo = d ++ tail) :
    pollRead c d.length none s = storeRegion c d (consume d s) := by
  have hread : streamRead d.length none s = d := by rw [streamRead, hfifo, List.take_left]
  rw [pollRead, hread, if_neg (Nat.lt_irrefl _)]

/-- The desynchronised end of a read from the streamer, its registers written out (R147, R148, R270). -/
theorem fatalDesync_eq_fatalEnd (c : Cfg) (sub : DesyncSub) (s : State) :
    fatalDesync c sub s = fatalEnd 2 (Err.desynchronized sub).subcause (eposOf c (s.spos - s.fstart).toNat) s := by
  simp only [fatalDesync, raise, fatalEnd, frameOffset, Err.cause, Err.desynchronizes, Bool.or_true, if_true]

/-- A poll step whose region stands at the front of the transport stores that region (R143, R145). -/
theorem pollStep_of_prefix (c : Cfg) {s : State} {d tail : Bytes} (halt intr : Bool) (hn : needLen s = some d.length)
    (hfifo : s.fifo = d ++ tail) : pollStep c halt intr none s = storeRegion c d (consume d s) := by
  have havail : d.length ≤ s.fifo.length := by simp [hfifo]
  rw [pollStep_of_available c halt intr none hn havail, pollRead_of_prefix c hfifo]

theorem consume_of_prefix {s : State} {d tail : Bytes} (hfifo : s.fifo = d ++ tail) :
    consume d s = { s with spos := s.spos + BitVec.ofNat 64 d.length, fifo := tail } := by
  rw [consume, hfifo, List.drop_left]

/-! ## Storing a region that fits -/

theorem storeHeader_of_fits (c : Cfg) {d : Bytes} (s : State) (htoff : hlen < be32 d 4) (hmax : be32 d 4 - hlen ≤ c.bodyMax) :
    storeHeader c d s = { s with hdrBuf := Memory.ofBytes d, phase := .wBody } := by
  obtain ⟨hsmall, -⟩ | ⟨-, hlarge, -⟩ | ⟨-, -, h⟩ := storeHeader_cases c d s
  · omega
  · omega
  · exact h

theorem storeTr1_of_fits (c : Cfg) (toff : Nat) {d : Bytes} (s : State) (hmax : pad4 (be32 d 4) ≤ c.authMax) :
    storeTr1 c toff d s = { s with tr1Buf := Memory.ofBytes d, phase := .wTr2 } := by
  obtain ⟨hlarge, -⟩ | ⟨-, h⟩ := storeTr1_cases c toff d s
  · omega
  · exact h

/-! ## The four regions of a frame -/

section Regions

variable {s : State} {d tail : Bytes} (c : Cfg) (halt intr : Bool)

theorem pollStep_header (hphase : s.phase = .wHdr) (hfifo : s.fifo = d ++ tail) (hlength : d.length = hlen)
    (htoff : hlen < be32 d 4) (hmax : be32 d 4 - hlen ≤ c.bodyMax) :
    pollStep c halt intr none s = .next { s with
      spos := s.spos + BitVec.ofNat 64 d.length, fifo := tail, hdrBuf := Memory.ofBytes d, phase := .wBody } := by
  have hn : needLen s = some d.length := by simp only [needLen, hphase, hlength]
  rw [pollStep_of_prefix c halt intr hn hfifo, consume_of_prefix hfifo]
  simp only [storeRegion, hphase, storeHeader_of_fits c _ htoff hmax]

theorem pollStep_body {h : Bytes} (hphase : s.phase = .wBody) (hfifo : s.fifo = d ++ tail)
    (hhdr : Memory.load s.hdrBuf 0 hlen = some h) (hlength : be32 h 4 - hlen = d.length) :
    pollStep c halt intr none s = .next { s with
      spos := s.spos + BitVec.ofNat 64 d.length, fifo := tail, bodyBuf := Memory.ofBytes d, bodyLen := d.length
      phase := .wTr1 } := by
  have hn : needLen s = some d.length := by
    simp only [needLen, hphase, storedToff_of_load hhdr, Option.map_some, hlength]
  rw [pollStep_of_prefix c halt intr hn hfifo, consume_of_prefix hfifo]
  simp only [storeRegion, hphase, storeBody]

theorem pollStep_tr1 {h : Bytes} (hphase : s.phase = .wTr1) (hfifo : s.fifo = d ++ tail)
    (hhdr : Memory.load s.hdrBuf 0 hlen = some h) (hlength : d.length = tr1Len) (hmax : pad4 (be32 d 4) ≤ c.authMax) :
    pollStep c halt intr none s = .next { s with
      spos := s.spos + BitVec.ofNat 64 d.length, fifo := tail, tr1Buf := Memory.ofBytes d, phase := .wTr2 } := by
  have hn : needLen s = some d.length := by simp only [needLen, hphase, hlength]
  have hstore : storeRegion c d (consume d s) = .next (storeTr1 c (be32 h 4) d (consume d s)) := by
    have htoff : storedToff (consume d s) = some (be32 h 4) := storedToff_of_load hhdr
    simp only [storeRegion, consume_phase, hphase, htoff]
  rw [pollStep_of_prefix c halt intr hn hfifo, hstore, storeTr1_of_fits c _ _ hmax, consume_of_prefix hfifo]

theorem pollStep_tr2 {h : Bytes} (hphase : s.phase = .wTr2) (hfifo : s.fifo = d ++ tail)
    (htr1 : Memory.load s.tr1Buf 0 tr1Len = some h) (hlength : d.length = pad4 (be32 h 4) + ckLen) :
    pollStep c halt intr none s = .next { s with
      spos := s.spos + BitVec.ofNat 64 d.length, fifo := tail, tr2Buf := Memory.ofBytes d, tr2Len := d.length
      rawValid := true, phase := .done } := by
  have hn : needLen s = some d.length := by rw [needLen_wTr2_of_load hphase htr1, hlength]
  rw [pollStep_of_prefix c halt intr hn hfifo, consume_of_prefix hfifo]
  simp only [storeRegion, hphase, storeTr2]

end Regions

/-- A pending poll step is taken off the moves, and the run goes on from what it leaves. -/
theorem run_poll {s t : State} {halt intr : Bool} {short : Option Nat} {more : List Input} (k : Nat)
    (hs : s.inputs = .poll halt intr short :: more)
    (hpoll : pollStep Config.cfg halt intr short { s with inputs := more } = .next t) :
    Host.Core.run Sys2Proof.core (k + 1) s = Host.Core.run Sys2Proof.core k t := by
  have hstep : step s = .next t := by simp only [step, hs, hpoll]
  simp only [Host.Core.run, Sys2Proof.core, hstep]

/-- Four poll steps read a complete frame that has arrived, and the run goes on from there (R145, R153). -/
theorem run_four_polls {s : State} {r : Regions} {rest : Bytes} {more : List Input} {h0 h1 h2 h3 i0 i1 i2 i3 : Bool} (k : Nat)
    (hr : CompleteFrame Config.cfg r) (hphase : s.phase = .wHdr) (hfifo : s.fifo = r.bytes ++ rest)
    (hs : s.inputs = .poll h0 i0 none :: .poll h1 i1 none :: .poll h2 i2 none :: .poll h3 i3 none :: more) :
    Host.Core.run Sys2Proof.core (k + 4) s = Host.Core.run Sys2Proof.core k { frameRead r rest s with inputs := more } := by
  have htoff : hlen < be32 r.hdr 4 := by have := hr.toff_eq; have := hr.body_pos; omega
  have hbody : be32 r.hdr 4 - hlen = r.body.length := by rw [hr.toff_eq, Nat.add_sub_cancel_left]
  have hhdr : Memory.load (Memory.ofBytes r.hdr) 0 hlen = some r.hdr := hr.hdr_length ▸ Memory.load_ofBytes r.hdr
  have htr1 : Memory.load (Memory.ofBytes r.tr1) 0 tr1Len = some r.tr1 := hr.tr1_length ▸ Memory.load_ofBytes r.tr1
  have hfifo' : s.fifo = r.hdr ++ (r.body ++ (r.tr1 ++ (r.tr2 ++ rest))) := by
    simp only [hfifo, Regions.bytes, List.append_assoc]
  rw [run_poll _ hs (pollStep_header _ h0 i0 hphase hfifo' hr.hdr_length htoff (hbody ▸ hr.body_fits)),
    run_poll _ rfl (pollStep_body _ h1 i1 rfl rfl hhdr hbody),
    run_poll _ rfl (pollStep_tr1 _ h2 i2 rfl rfl hhdr hr.tr1_length hr.auth_fits),
    run_poll _ rfl (pollStep_tr2 _ h3 i3 rfl rfl htr1 hr.tr2_length)]
  simp only [frameRead, Regions.bytes, List.length_append, BitVec.ofNat_add, BitVec.add_assoc]

end Sys2Proof.Machine

namespace Sys2Proof.Proofs

open Sys2Proof.Machine

/-- Settles O44, region by region: each poll step finds the length of its region in what the steps before it stored. -/
theorem wholeFrameStreamsInFourPolls : Obligations.WholeFrameStreamsInFourPolls := by
  intro s r rest more h0 h1 h2 h3 i0 i1 i2 i3 hr hphase hfifo hs
  exact run_four_polls 0 hr hphase hfifo hs

/-- Settles O41: the awaited bytes are there, so the transport is asked, and what it returns is too short. -/
theorem shortReadIsFatal : Obligations.ShortReadIsFatal := by
  intro c s n k halt intr _ hn havail hk
  have hlength : (s.fifo.take k).length = k := List.length_take_of_le (by omega)
  rw [pollStep_of_available c halt intr (some k) hn havail, pollRead_of_short c havail hk, fatalDesync_eq_fatalEnd, consume,
    hlength]
  rfl

end Sys2Proof.Proofs

/-! SUPPORT. What the decoder read, the encoder writes: integers, stripped strings and whole regions (R12, R81, R82, R126,
R127). -/

namespace Sys2Proof

/-! ## Fields written back -/

/-- Strings of one length with the same big-endian view are the same (R12). -/
theorem beNat_inj {a b : Bytes} (hlength : a.length = b.length) (h : beNat a = beNat b) : a = b := by
  induction a generalizing b with
  | nil => exact (List.length_eq_zero_iff.mp hlength.symm).symm
  | cons x a ih =>
    cases b with
    | nil => cases hlength
    | cons y b =>
      have hlength' : a.length = b.length := Nat.succ.inj hlength
      have ha : beNat a < 256 ^ b.length := hlength' ▸ beNat_lt a
      have hb := beNat_lt b
      rw [beNat_cons, beNat_cons, hlength'] at h
      have hhead : x.toNat = y.toNat := by
        have hdiv := congrArg (· / 256 ^ b.length) h
        simpa [Nat.mul_comm _ (256 ^ b.length), Nat.mul_add_div (Nat.zero_lt_of_lt hb), Nat.div_eq_of_lt, ha, hb] using hdiv
      rw [hhead, Nat.add_left_cancel_iff] at h
      rw [BitVec.eq_of_toNat_eq hhead, ih hlength' h]

theorem toBe_beNat {b : Bytes} {n : Nat} (hn : b.length = n) : toBe n (beNat b) = b := by
  subst hn
  refine beNat_inj (toBe_length ..) ?_
  rw [beNat_toBe, Nat.mod_eq_of_lt (beNat_lt b)]

theorem toBe_be32 {b : Bytes} {o : Nat} (h : o + 4 ≤ b.length) : toBe 4 (be32 b o) = slice b o 4 :=
  toBe_beNat (slice_length b o 4 h)

theorem toBe_be64 {b : Bytes} {o : Nat} (h : o + 8 ≤ b.length) : toBe 8 (be64 b o) = slice b o 8 :=
  toBe_beNat (slice_length b o 8 h)

theorem slice_append_slice (b : Bytes) (o n k : Nat) : slice b o n ++ slice b (o + n) k = slice b o (n + k) := by
  rw [slice, slice, slice, List.take_add, List.drop_drop]

theorem slice_zero_eq_self {b : Bytes} {n : Nat} (hn : b.length = n) : slice b 0 n = b := by
  rw [slice, List.drop_zero, List.take_of_length_le hn.le]

/-- What the right-strip takes off is what the padding puts back (R126, R127). -/
theorem padTo_rstrip {x : Bytes} {w : Nat} (hw : x.length = w) : padTo w (rstrip x) = x := by
  have hsplit : rstrip x ++ (x.reverse.takeWhile (fun y => y == 0)).reverse = x := by
    rw [rstrip, ← List.reverse_append, List.takeWhile_append_dropWhile, List.reverse_reverse]
  have hzeros : (x.reverse.takeWhile (fun y => y == 0)).reverse = zeros (w - (rstrip x).length) := by
    refine List.eq_replicate_iff.mpr ⟨?_, fun y hy => ?_⟩
    · have hsum := congrArg List.length hsplit
      rw [List.length_append] at hsum
      omega
    · simpa using List.mem_takeWhile_imp (List.mem_reverse.mp hy)
  rw [padTo, ← hzeros, hsplit]

/-! ## Instructions of a frame type -/

theorem FrameType.encode_instr (t : FrameType) (f : Frame) : encode (t.instr f) = .frame (f.regions t) := by
  cases t <;> rfl

theorem FrameType.wellFormed_instr (t : FrameType) (f : Frame) : (t.instr f).wellFormed = f.wellFormed := by
  cases t <;> rfl

/-! ## The regions of a decoded frame -/

section DecodedFrame

variable {r : Regions}

/-- The six header fields written back one after the other are the header (R81). -/
theorem hdr_regions_frameOf {t : FrameType} (hhdr : r.hdr.length = hlen) (ht : be32 r.hdr 0 = t.code) :
    ((frameOf r).regions t).hdr = r.hdr := by
  have hlength : r.hdr.length = 36 := hhdr
  have hcreator : padTo 8 (rstrip (slice r.hdr 8 8)) = slice r.hdr 8 8 := padTo_rstrip (slice_length _ _ _ (by omega))
  have hdest : padTo 8 (rstrip (slice r.hdr 16 8)) = slice r.hdr 16 8 := padTo_rstrip (slice_length _ _ _ (by omega))
  simp only [Frame.regions, frameOf, ← ht, BitVec.toNat_ofNat, be32_mod, be64_mod, Nat.reducePow, hcreator, hdest]
  rw [toBe_be32 (by omega), toBe_be32 (by omega), toBe_be64 (by omega), toBe_be32 (by omega)]
  simp only [slice_append_slice _ 0, slice_zero_eq_self hhdr, Nat.reduceAdd]

theorem tr1_regions_frameOf (t : FrameType) (htr1 : r.tr1.length = tr1Len) : ((frameOf r).regions t).tr1 = r.tr1 := by
  simp only [Frame.regions, frameOf, BitVec.toNat_ofNat, be32_mod, Nat.reducePow]
  rw [toBe_be32 (by rw [htr1]; decide), toBe_be32 htr1.ge, slice_append_slice, slice_zero_eq_self htr1]

theorem tr2_regions_frameOf (t : FrameType) (htr2 : r.tr2.length = pad4 (be32 r.tr1 4) + ckLen) :
    ((frameOf r).regions t).tr2 = r.tr2 := by
  simp only [Frame.regions, frameOf, BitVec.toNat_ofNat, be64_mod, Nat.reducePow]
  have hsplit := slice_append_slice r.tr2 0 (pad4 (be32 r.tr1 4)) ckLen
  rw [Nat.zero_add] at hsplit
  rw [toBe_be64 htr2.ge, hsplit, slice_zero_eq_self htr2]

/-- The operands read from regions of the right lengths are written back to these regions (R81, R82). -/
theorem regions_frameOf {t : FrameType} (hhdr : r.hdr.length = hlen) (htr1 : r.tr1.length = tr1Len)
    (htr2 : r.tr2.length = pad4 (be32 r.tr1 4) + ckLen) (ht : be32 r.hdr 0 = t.code) : (frameOf r).regions t = r := by
  calc (frameOf r).regions t
      = { hdr := ((frameOf r).regions t).hdr, body := r.body, tr1 := ((frameOf r).regions t).tr1
          tr2 := ((frameOf r).regions t).tr2 } := rfl
    _ = r := by rw [hdr_regions_frameOf hhdr ht, tr1_regions_frameOf t htr1, tr2_regions_frameOf t htr2]

/-- Operands read from a frame whose trailer starts right after a body of at least one byte are well-formed (R26, R27, R84). -/
theorem wellFormed_frameOf (htr2 : r.tr2.length = pad4 (be32 r.tr1 4) + ckLen) (htoff : be32 r.hdr 4 = hlen + r.body.length)
    (hbody : 0 < r.body.length) : (frameOf r).wellFormed = true := by
  have hauth : (slice r.tr2 0 (pad4 (be32 r.tr1 4))).length = pad4 (be32 r.tr1 4) := slice_length _ _ _ (by omega)
  refine (frameOf r).wellFormed_iff.mpr ⟨?_, ?_, nameOk_rstrip (slice_length_le ..), nameOk_rstrip (slice_length_le ..), ?_⟩
  · simp [Frame.offsetOk, frameOf, ← htoff]
  · simpa [Frame.bodyOk, frameOf] using List.ne_nil_of_length_pos hbody
  · simp [Frame.authOk, frameOf, hauth]

end DecodedFrame

end Sys2Proof

namespace Sys2Proof.Proofs

/-- Settles O3: the operands are the fields of the regions, and every field is written back as it was read. -/
theorem encodeUndoesDecode : Obligations.EncodeUndoesDecode := by
  intro r i hi
  obtain ⟨hhdr, htr1, htr2, t, ht, rfl⟩ := (decodeRegions_ok_iff r i).mp hi
  have hcode : be32 r.hdr 0 = t.code := (FrameType.ofCode_eq_some_iff _ t).mp ht
  refine ⟨?_, fun htoff hbody => ?_⟩
  · rw [FrameType.encode_instr, regions_frameOf hhdr htr1 htr2 hcode]
  · rw [FrameType.wellFormed_instr]
    exact wellFormed_frameOf htr2 htoff hbody

end Sys2Proof.Proofs

/-! SUPPORT. A header whose type word names no frame type (R85, R161). -/

namespace Sys2Proof

/-- The eleven type codes (R83). -/
theorem FrameType.code_mem (t : FrameType) : t.code ∈ [1, 2, 3, 4, 5, 6, 7, 8, 9, 13, 26] := by
  cases t <;> decide

theorem FrameType.ofCode_eq_none {n : Nat} (h : n ∉ [1, 2, 3, 4, 5, 6, 7, 8, 9, 13, 26]) : FrameType.ofCode n = none := by
  refine Option.eq_none_iff_forall_ne_some.mpr fun t ht => h ?_
  rw [(FrameType.ofCode_eq_some_iff n t).mp ht]
  exact t.code_mem

end Sys2Proof

namespace Sys2Proof.Machine

open Sys2Proof.Claims

theorem hdrDec_of_unknown {h : Bytes} (hlength : h.length = hlen) (hty : FrameType.ofCode (be32 h 0) = none) :
    hdrDec h = .error (.badType, 0) := by
  rw [hdrDec_eq h hlength, headerChecks, hty]

theorem decodeRegionsHeld_of_header_error {c : Cfg} {r : Regions} {sub : MalformedSub} {pos : Nat} (s : State)
    (h : hdrDec r.hdr = .error (sub, pos)) : decodeRegionsHeld c r s = raise c .command (.malformed sub) pos s := by
  rw [decodeRegionsHeld, h, runDecode]

/-- An error of `DECODE` before any register is written, its registers written out (R178, R270). -/
theorem raise_beginDecode_eq_cleared (c : Cfg) (sub : MalformedSub) (pos : Nat) (s : State) :
    raise c .command (.malformed sub) pos (beginDecode s) = cleared 3 sub.code (eposOf c pos) s := rfl

theorem heldRegions_hdr_length {s : State} {r : Regions} (h : heldRegions s = some r) : r.hdr.length = hlen := by
  obtain ⟨hhdr, -⟩ := (heldRegions_eq_some_iff s r).mp h
  exact Memory.load_length _ _ _ _ hhdr

end Sys2Proof.Machine

namespace Sys2Proof.Proofs

open Sys2Proof.Machine

/-- Settles O5: the type is the first test of the header decoder, and it fails on a word outside the map. -/
theorem unknownTypeIsBadType : Obligations.UnknownTypeIsBadType := by
  refine ⟨FrameType.ofCode_eq_some_iff, fun s r hraw hheld hty => ?_⟩
  have hnone : FrameType.ofCode (be32 r.hdr 0) = none := FrameType.ofCode_eq_none hty
  refine ⟨fun i hi => ?_, ?_⟩
  · obtain ⟨-, -, -, t, ht, -⟩ := (decodeRegions_ok_iff r i).mp hi
    rw [hnone] at ht
    cases ht
  · have hheader := hdrDec_of_unknown (heldRegions_hdr_length hheld) hnone
    rw [exec_decode_of_held hraw hheld, decodeRegionsHeld_of_header_error _ hheader, raise_beginDecode_eq_cleared]
    rfl

end Sys2Proof.Proofs

/-! SUPPORT. The commands of the receive path where they are accepted: `RDFRAME`, `DECODE` of a well-formed frame, `VERIFY`
(R141, R172, R178). -/

namespace Sys2Proof.Machine

open Sys2Proof.Claims

theorem exec_rdframe_of_ready {s : State} (hphase : s.phase.waiting = false) (hsync : s.desync = false) :
    exec .rdframe s = .next (startRead s) := by
  simp [exec, execRdframe, hphase, hsync]

/-- The header of a well-formed frame passes the tests of R161. -/
theorem frameHeader_of_wellFormed (t : FrameType) {f : Frame} (hwf : f.wellFormed = true) : frameHeader t f = .ok
    { ty := t, toff := f.trailerOffset, creator := f.creator, dest := f.destination, seq := f.sequence
      series := f.series } := by
  obtain ⟨hoffset, hbody, -⟩ := f.wellFormed_iff.mp hwf
  have htoff : hlen < f.trailerOffset.toNat := by
    have hpos : 0 < f.body.length := List.length_pos_iff.mpr (by simpa [Frame.bodyOk] using hbody)
    have heq : f.trailerOffset.toNat = hlen + f.body.length := by simpa [Frame.offsetOk] using hoffset
    omega
  exact (headerChecks_ok_iff ..).mpr ⟨t, (FrameType.ofCode_eq_some_iff _ t).mpr rfl, htoff, by simp⟩

/-- The trailer of a well-formed frame holds its authentication value whole (R166). -/
theorem frameTrailer_of_wellFormed {f : Frame} (toff : BitVec 32) (hwf : f.wellFormed = true) : frameTrailer f toff = .ok
    { keyid := f.authKeyId, authsz := f.authSize, authval := f.authValue, cksum := f.checksum } := by
  obtain ⟨-, -, -, -, hauth⟩ := f.wellFormed_iff.mp hwf
  have hlength : f.authValue.length = pad4 f.authSize.toNat := by simpa [Frame.authOk] using hauth
  rw [frameTrailer, if_neg (Nat.not_lt.mpr hlength.ge), slice_zero_eq_self hlength]

/-- A well-formed frame whose body decodes is delivered whole (R161, R166, R178). -/
theorem runFrame_eq_delivered (c : Cfg) (t : FrameType) {f : Frame} (b : Body) (k : Nat) (s : State)
    (hwf : f.wellFormed = true) : runFrame c t (.ok b k) f s = delivered t f b k s := by
  have hwarn : (0 : BitVec 32) ||| b.warn ||| warnIf warnBodylen (k != f.body.length)
      = b.warn ||| (if k = f.body.length then 0 else 1) := by
    by_cases hk : k = f.body.length <;> simp [warnIf, warnBodylen, hk]
  simp only [runFrame, runDecode, frameHeader_of_wellFormed t hwf, frameTrailer_of_wellFormed _ hwf, setTrailer, setBody,
    setHeader, beginDecode, clearError, delivered, hwarn]

/-- Regions of a complete frame just read are the regions held. -/
theorem heldRegions_frameRead {c : Cfg} {r : Regions} (rest : Bytes) (s : State) (hr : CompleteFrame c r) :
    heldRegions (frameRead r rest s) = some r :=
  (heldRegions_congr (frameRead r rest s) (setRegions r s) rfl rfl rfl rfl rfl rfl).trans
    (heldRegions_setRegions r s hr.hdr_length hr.tr1_length)

theorem wellFormed_of_decodeRegions {c : Cfg} {r : Regions} {t : FrameType} {f : Frame} (hr : CompleteFrame c r)
    (h : decodeRegions r = .ok (t.instr f)) : f.wellFormed = true := by
  obtain ⟨-, hwf⟩ := Proofs.encodeUndoesDecode r _ h
  rw [← t.wellFormed_instr f]
  exact hwf hr.toff_eq hr.body_pos

/-- `DECODE` delivers a held frame that is complete and whose body decodes (R178; log 5). -/
theorem exec_decode_eq_delivered {s : State} {r : Regions} {t : FrameType} {f : Frame} {b : Body} {k : Nat}
    (hr : CompleteFrame Config.cfg r) (hraw : s.rawValid = true) (hheld : heldRegions s = some r)
    (hdec : decodeRegions r = .ok (t.instr f)) (hb : bodyDec Config.cfg s.realign t f.body = .ok b k) :
    exec .decode s = .next (delivered t f b k s) := by
  have hi : heldInstr s = some (t.instr f) := (heldInstr_eq_some_iff s _).mpr ⟨hraw, r, hheld, hdec⟩
  rw [Proofs.decodeRunsTheHeldFrame s _ hi, exec_frame, hb, runFrame_eq_delivered _ t b k s (wellFormed_of_decodeRegions hr hdec)]

/-- A pending command is taken off the moves, and the run goes on from what it leaves (R38). -/
theorem run_command {s t : State} {c : Command} {more : List Input} (k : Nat) (hs : s.inputs = .command c :: more)
    (hexec : exec (decodeCommand c) { s with inputs := more } = .next t) :
    Host.Core.run Sys2Proof.core (k + 1) s = Host.Core.run Sys2Proof.core k t := by
  have hstep : step s = .next t := by rw [step_command hs, exec_fetchCommand, hexec]
  simp only [Host.Core.run, Sys2Proof.core, hstep]

/-- `DECODE` and `VERIFY` deliver a held frame and compare its checksum (R172, R178). -/
theorem run_decode_verify {s : State} {r : Regions} {t : FrameType} {f : Frame} {b : Body} {k : Nat} {more : List Input}
    (hr : CompleteFrame Config.cfg r) (hraw : s.rawValid = true) (hheld : heldRegions s = some r)
    (hdec : decodeRegions r = .ok (t.instr f)) (hb : bodyDec Config.cfg s.realign t f.body = .ok b k)
    (hs : s.inputs = .command (Command.plain 2) :: .command (Command.plain 3) :: more) :
    Host.Core.run Sys2Proof.core 2 s
      = .next (checkCrc Config.cfg r.bytes { delivered t f b k s with inputs := more }) := by
  refine (run_command 1 hs (exec_decode_eq_delivered hr hraw hheld hdec hb)).trans ?_
  exact run_command 0 rfl (exec_verify_of_held hraw rfl hheld)

end Sys2Proof.Machine

namespace Sys2Proof.Proofs

open Sys2Proof.Machine

/-- Settles O45, move by move: the read starts, four polls hold the frame, `DECODE` delivers it, `VERIFY` compares. -/
theorem receivePathDeliversTheFrame : Obligations.ReceivePathDeliversTheFrame := by
  intro s r rest more t f b k h0 h1 h2 h3 i0 i1 i2 i3 hphase hsync hr hdec hb hfifo hs
  refine (run_command 6 hs (exec_rdframe_of_ready hphase hsync)).trans ?_
  refine (run_four_polls (s := startRead { s with inputs := _ }) 2 hr rfl hfifo rfl).trans ?_
  exact run_decode_verify hr rfl (heldRegions_frameRead rest (startRead s) hr) hdec hb rfl

end Sys2Proof.Proofs

/-! SUPPORT. One-byte fields (R123, R124), and a decoder walked field by field: what holds where it passes and what holds
where it fails (R110, R111). -/

namespace Sys2Proof

/-! ## One-byte fields -/

/-- A slice taken byte by byte. -/
theorem slice_succ {b : Bytes} {o : Nat} (n : Nat) (h : o < b.length) :
    slice b o (n + 1) = b.getD o 0 :: slice b (o + 1) n := by
  rw [slice, slice, List.drop_eq_getElem_cons h, List.take_succ_cons]
  simp [h]

/-- One raw byte: `need`, then the byte at the cursor as it stands. -/
theorem getByte_eq_need (b : Bytes) (o : Nat) : getByte b o = need b o 1 (.ok (b.getD o 0) (o + 1)) := by
  by_cases h : o + 1 ≤ b.length
  · have hbyte : slice b o 1 = [b.getD o 0] := slice_succ 0 h
    simp [getByte, getU8, getUInt, need, h, Res.andThen, hbyte, beNat]
  · simp [getByte, getU8, getUInt, need, h, Res.andThen]

theorem getByte_append_cons (pre suf : Bytes) (x : Byte) :
    getByte (pre ++ x :: suf) pre.length = .ok x (pre.length + 1) := by
  rw [getByte_eq_need, need_of_le _ _ _ _ (by simp)]
  simp

/-! ## Walking a decoder -/

/-- `P` holds of the value and the cursor of a decoder that passes, `Q` of the reason and the position of one that fails. -/
def Res.Meets {α : Type} (r : Res α) (P : α → Nat → Prop) (Q : MalformedSub → Nat → Prop) : Prop :=
  (∀ v o, r = .ok v o → P v o) ∧ ∀ sub p, r = .fail sub p → Q sub p

section Walk

variable {α β : Type} {b : Bytes} {o : Nat} {Q : MalformedSub → Nat → Prop}

theorem Res.meets_ok {P : α → Nat → Prop} {v : α} (h : P v o) : (Res.ok v o).Meets P Q := by
  refine ⟨fun v' o' he => ?_, fun _ _ he => by cases he⟩
  cases he
  exact h

theorem Res.meets_fail {P : α → Nat → Prop} {sub : MalformedSub} (h : Q sub o) : (Res.fail sub o).Meets P Q := by
  refine ⟨fun _ _ he => (by cases he), fun sub' p he => ?_⟩
  cases he
  exact h

theorem Res.Meets.andThen {P : β → Nat → Prop} {r : Res α} {k : α → Nat → Res β}
    (h : r.Meets (fun v o' => (k v o').Meets P Q) Q) : (r.andThen k).Meets P Q := by
  obtain ⟨hok, hfail⟩ := h
  cases r with
  | ok v o' => exact hok v o' rfl
  | fail sub p => exact Res.meets_fail (hfail sub p rfl)

theorem need_meets {P : α → Nat → Prop} {n : Nat} {v : α} {o' : Nat} (hok : o + n ≤ b.length → P v o')
    (hfail : b.length < o + n → Q .shortField o) : (need b o n (.ok v o')).Meets P Q := by
  unfold need
  split_ifs with h
  · exact Res.meets_ok (hok h)
  · exact Res.meets_fail (hfail (Nat.lt_of_not_le h))

theorem getU32_meets {P : Nat → Nat → Prop} (hok : o + 4 ≤ b.length → P (be32 b o) (o + 4))
    (hfail : b.length < o + 4 → Q .shortField o) : (getU32 b o).Meets P Q := need_meets hok hfail

theorem getF32_meets {P : BitVec 32 → Nat → Prop} (hok : o + 4 ≤ b.length → P (BitVec.ofNat 32 (be32 b o)) (o + 4))
    (hfail : b.length < o + 4 → Q .shortField o) : (getF32 b o).Meets P Q :=
  .andThen (getU32_meets (fun h => Res.meets_ok (hok h)) hfail)

theorem getTs_meets {P : Bytes → Nat → Prop} (hok : o + 20 ≤ b.length → P (slice b o 20) (o + 20))
    (hfail : b.length < o + 20 → Q .shortField o) : (getTs b o).Meets P Q := need_meets hok hfail

theorem getByte_meets {P : Byte → Nat → Prop} (hok : o + 1 ≤ b.length → P (b.getD o 0) (o + 1))
    (hfail : b.length < o + 1 → Q .shortField o) : (getByte b o).Meets P Q := by
  rw [getByte_eq_need]
  exact need_meets hok hfail

theorem getBool_meets {P : BoolByte → Nat → Prop} (hok : o + 1 ≤ b.length → P { raw := b.getD o 0 } (o + 1))
    (hfail : b.length < o + 1 → Q .shortField o) : (getBool b o).Meets P Q :=
  .andThen (getByte_meets (fun h => Res.meets_ok (hok h)) hfail)

theorem getEnum_meets {P : Byte → Nat → Prop} {codes : List Byte}
    (hok : o + 1 ≤ b.length → b.getD o 0 ∈ codes → P (b.getD o 0) (o + 1)) (hbad : Q .badEnum o)
    (hfail : b.length < o + 1 → Q .shortField o) : (getEnum codes b o).Meets P Q := by
  refine .andThen (getByte_meets (fun h => ?_) hfail)
  split_ifs with hmem
  · exact Res.meets_ok (hok h hmem)
  · exact Res.meets_fail hbad

theorem getStr_meets {P : Bytes → Nat → Prop} {w : Nat} (hok : o + w ≤ b.length → P (rstrip (slice b o w)) (o + w))
    (hfail : b.length < o + w → Q .shortField o) : (getStr w b o).Meets P Q := need_meets hok hfail

theorem getNonblank_meets {P : Bytes → Nat → Prop} {w : Nat}
    (hok : o + w ≤ b.length → blank (rstrip (slice b o w)) = false → P (rstrip (slice b o w)) (o + w))
    (hblank : Q .blankField o) (hfail : b.length < o + w → Q .shortField o) : (getNonblank w b o).Meets P Q := by
  refine .andThen (getStr_meets (fun h => ?_) hfail)
  split_ifs with hbl
  · exact Res.meets_fail hblank
  · exact Res.meets_ok (hok h (by simpa using hbl))

theorem getVar_meets {P : Bytes → Nat → Prop}
    (hok : o + 4 + pad4 (be32 b o) ≤ b.length → P (slice b (o + 4) (be32 b o)) (o + 4 + pad4 (be32 b o)))
    (hprefix : b.length < o + 4 → Q .shortField o) (hvalue : o + 4 ≤ b.length → Q .shortField (o + 4)) :
    (getVar b o).Meets P Q :=
  .andThen (getU32_meets (fun h => need_meets hok fun _ => hvalue h) hprefix)

end Walk

end Sys2Proof

namespace Sys2Proof.Proofs

/-- Settles O10: both fields read the byte at the cursor; the enumerated one then looks it up. -/
theorem enumAndBooleanBytes : Obligations.EnumAndBooleanBytes := by
  intro pre suf x codes
  have hbyte := getByte_append_cons pre suf x
  refine ⟨fun hmem => ?_, fun hmem => ?_, { raw := x }, ?_, rfl, beq_iff_eq⟩
  · rw [getEnum, hbyte]
    exact if_pos hmem
  · rw [getEnum, hbyte]
    exact if_neg hmem
  · rw [getBool, hbyte]
    rfl

end Sys2Proof.Proofs

/-! SUPPORT. The places of the fields of a channel subframe, and everything its decoder can answer (R236, R237, R243; the
widths are PRESUMED, log 16). -/

namespace Sys2Proof.Machine

/-- Where the size of `channel_data` stands in the subframe at `s` (R236). -/
def channelDataAt (b : Bytes) (s : Nat) : Nat := s + 64 + pad4 (be32 b (s + 60))

/-- Where `subframe_count` stands in the subframe at `s` (R236). -/
def subframeCountAt (b : Bytes) (s : Nat) : Nat := channelDataAt b s + 4 + pad4 (be32 b (channelDataAt b s))

/-- Where the subframe at `s` ends (R236). -/
def subframeEnd (b : Bytes) (s : Nat) : Nat := subframeCountAt b s + 12 + pad4 (be32 b (subframeCountAt b s + 8))

/-- The fields of the subframe at `s`, each read at its place (R236). -/
def subframeOf (b : Bytes) (s : Nat) : ChannelSubframe :=
  { channelLength := be32 b s, authOffset := be32 b (s + 4)
    authenticationOn := { raw := b.getD (s + 8) 0 }, compressionFormat := b.getD (s + 9) 0
    sensorType := b.getD (s + 10) 0, isCalib := { raw := b.getD (s + 11) 0 }
    siteName := rstrip (slice b (s + 12) 5), channelName := rstrip (slice b (s + 17) 3)
    locationName := rstrip (slice b (s + 20) 2), dataType := rstrip (slice b (s + 22) 2)
    calibrationFactor := BitVec.ofNat 32 (be32 b (s + 24)), calibrationPeriod := BitVec.ofNat 32 (be32 b (s + 28))
    timeStamp := slice b (s + 32) 20, subframeTimeLengthMs := be32 b (s + 52), sampleCount := be32 b (s + 56)
    channelStatusData := slice b (s + 64) (be32 b (s + 60))
    channelData := slice b (channelDataAt b s + 4) (be32 b (channelDataAt b s))
    subframeCount := be32 b (subframeCountAt b s), authKeyId := be32 b (subframeCountAt b s + 4)
    authValue := slice b (subframeCountAt b s + 12) (be32 b (subframeCountAt b s + 8)) }

/-- The bytes at `s` are a subframe that ends within the body, with legal enum bytes and names that are not blank (R237). -/
structure SubframeFits (c : Cfg) (b : Bytes) (s : Nat) : Prop where
  end_le : subframeEnd b s ≤ b.length
  compression_mem : (subframeOf b s).compressionFormat ∈ c.compressionCodes
  sensor_mem : (subframeOf b s).sensorType ∈ c.sensorCodes
  site_not_blank : blank (subframeOf b s).siteName = false
  channel_not_blank : blank (subframeOf b s).channelName = false

/-- How the subframe at `s` can fail: a field that does not fit, at its place within the body; a byte that is no code, at
one of the two enum bytes; a blank name, at one of the two names (R237, R262). -/
def SubframeFault (b : Bytes) (s : Nat) (sub : MalformedSub) (p : Nat) : Prop :=
  (sub = .shortField ∧ s ≤ p ∧ (s ≤ b.length → p ≤ b.length))
  ∨ (sub = .badEnum ∧ (p = s + 9 ∨ p = s + 10))
  ∨ (sub = .blankField ∧ (p = s + 12 ∨ p = s + 17))

theorem csfDec_meets (c : Cfg) (b : Bytes) (s : Nat) :
    (csfDec c b s).Meets (fun f o => f = subframeOf b s ∧ o = subframeEnd b s ∧ SubframeFits c b s) (SubframeFault b s) := by
  have short {p : Nat} (hle : s ≤ p) (hbody : s ≤ b.length → p ≤ b.length) : SubframeFault b s .shortField p :=
    .inl ⟨rfl, hle, hbody⟩
  have noCode {p : Nat} (hp : p = s + 9 ∨ p = s + 10) : SubframeFault b s .badEnum p := .inr (.inl ⟨rfl, hp⟩)
  have blankName {p : Nat} (hp : p = s + 12 ∨ p = s + 17) : SubframeFault b s .blankField p := .inr (.inr ⟨rfl, hp⟩)
  rw [csfDec]
  refine .andThen (getU32_meets (fun hlength => ?_) fun _ => short ?_ ?_)
  refine .andThen (getU32_meets (fun hauthOffset => ?_) fun _ => short ?_ ?_)
  refine .andThen (getBool_meets (fun hauthOn => ?_) fun _ => short ?_ ?_)
  refine .andThen (getEnum_meets (fun hcompression hcode => ?_) (noCode (.inl rfl)) fun _ => short ?_ ?_)
  refine .andThen (getEnum_meets (fun hsensor hcode' => ?_) (noCode (.inr rfl)) fun _ => short ?_ ?_)
  refine .andThen (getBool_meets (fun hcalib => ?_) fun _ => short ?_ ?_)
  refine .andThen (getNonblank_meets (fun hsite hname => ?_) (blankName (.inl rfl)) fun _ => short ?_ ?_)
  refine .andThen (getNonblank_meets (fun hchannel hname' => ?_) (blankName (.inr rfl)) fun _ => short ?_ ?_)
  refine .andThen (getStr_meets (fun hlocation => ?_) fun _ => short ?_ ?_)
  refine .andThen (getStr_meets (fun hdataType => ?_) fun _ => short ?_ ?_)
  refine .andThen (getF32_meets (fun hfactor => ?_) fun _ => short ?_ ?_)
  refine .andThen (getF32_meets (fun hperiod => ?_) fun _ => short ?_ ?_)
  refine .andThen (getTs_meets (fun hstamp => ?_) fun _ => short ?_ ?_)
  refine .andThen (getU32_meets (fun htimeLength => ?_) fun _ => short ?_ ?_)
  refine .andThen (getU32_meets (fun hsamples => ?_) fun _ => short ?_ ?_)
  refine .andThen (getVar_meets (fun hstatus => ?_) (fun _ => short ?_ ?_) fun _ => short ?_ ?_)
  refine .andThen (getVar_meets (fun hdata => ?_) (fun _ => short ?_ ?_) fun _ => short ?_ ?_)
  refine .andThen (getU32_meets (fun hcount => ?_) fun _ => short ?_ ?_)
  refine .andThen (getU32_meets (fun hkeyid => ?_) fun _ => short ?_ ?_)
  refine .andThen (getVar_meets (fun hauth => ?_) (fun _ => short ?_ ?_) fun _ => short ?_ ?_)
  · exact Res.meets_ok ⟨rfl, rfl, hauth, hcode, hcode', hname, hname'⟩
  all_goals omega

section Layout

variable {c : Cfg} {b : Bytes} {s : Nat}

theorem channelStatusData_length (h : SubframeFits c b s) :
    (subframeOf b s).channelStatusData.length = be32 b (s + 60) := by
  have hend : s + 64 + pad4 (be32 b (s + 60)) ≤ b.length := by
    have hfits := h.end_le
    simp only [subframeEnd, subframeCountAt, channelDataAt] at hfits
    omega
  exact slice_length _ _ _ ((Nat.add_le_add_left (le_pad4 _) _).trans hend)

theorem channelData_length (h : SubframeFits c b s) :
    (subframeOf b s).channelData.length = be32 b (channelDataAt b s) := by
  have hend : channelDataAt b s + 4 + pad4 (be32 b (channelDataAt b s)) ≤ b.length := by
    have hfits := h.end_le
    simp only [subframeEnd, subframeCountAt] at hfits
    omega
  exact slice_length _ _ _ ((Nat.add_le_add_left (le_pad4 _) _).trans hend)

theorem authValue_length (h : SubframeFits c b s) :
    (subframeOf b s).authValue.length = be32 b (subframeCountAt b s + 8) :=
  slice_length _ _ _ ((Nat.add_le_add_left (le_pad4 _) _).trans h.end_le)

theorem channelDataAt_eq (h : SubframeFits c b s) :
    channelDataAt b s = s + 64 + pad4 (subframeOf b s).channelStatusData.length := by
  rw [channelStatusData_length h, channelDataAt]

theorem subframeCountAt_eq (h : SubframeFits c b s) : subframeCountAt b s
    = s + 68 + (pad4 (subframeOf b s).channelStatusData.length + pad4 (subframeOf b s).channelData.length) := by
  rw [channelStatusData_length h, channelData_length h, subframeCountAt, channelDataAt]
  omega

/-- From the start of a subframe to its end there are `SFLEN` bytes (R243). -/
theorem subframeEnd_eq (h : SubframeFits c b s) : subframeEnd b s = s + sflen (subframeOf b s) := by
  rw [subframeEnd, ← authValue_length h, subframeCountAt_eq h, sflen]
  omega

/-- The four one-byte fields stand side by side (R236). -/
theorem slice_flagBytes (h : SubframeFits c b s) : slice b (s + 8) 4
    = [(subframeOf b s).authenticationOn.raw, (subframeOf b s).compressionFormat, (subframeOf b s).sensorType,
        (subframeOf b s).isCalib.raw] := by
  have hend : s + 12 ≤ b.length := by
    have hfits := h.end_le
    simp only [subframeEnd, subframeCountAt, channelDataAt] at hfits
    omega
  rw [slice_succ 3 (by omega), slice_succ 2 (by omega), slice_succ 1 (by omega), slice_succ 0 (by omega)]
  rfl

end Layout

end Sys2Proof.Machine

namespace Sys2Proof.Proofs

open Sys2Proof.Machine

/-- Settles O13 by walking the decoder once: it reads the fields at their places or fails at one of them. -/
theorem subframeLayoutAndFailures : Obligations.SubframeLayoutAndFailures := by
  refine ⟨fun c b s o f hf => ?_, fun c b s p sub hf => ?_⟩
  · obtain ⟨hok, -⟩ := csfDec_meets c b s
    obtain ⟨rfl, rfl, h⟩ := hok f o hf
    have hword (o : Nat) : (BitVec.ofNat 32 (be32 b o)).toNat = be32 b o := by simp
    refine ⟨rfl, rfl, slice_flagBytes h, h.compression_mem, h.sensor_mem, rfl, rfl, rfl, rfl, h.site_not_blank,
      h.channel_not_blank, hword _, hword _, rfl, rfl, rfl, rfl, fun j hj => ?_, subframeEnd_eq h, h.end_le⟩
    have hdata : channelDataAt b s = s + 64 + j := by rw [channelDataAt_eq h, hj]
    have hdata' : channelDataAt b s + 4 = s + 68 + j := by omega
    refine ⟨?_, fun k hk => ?_⟩
    · rw [← hdata, ← hdata']
      rfl
    · have hcount : subframeCountAt b s = s + 68 + k := by rw [subframeCountAt_eq h, hk, hj]
      have hkeyid : subframeCountAt b s + 4 = s + 72 + k := by omega
      have hsize : subframeCountAt b s + 8 = s + 76 + k := by omega
      have hvalue : subframeCountAt b s + 12 = s + 80 + k := by omega
      rw [← hcount, ← hkeyid, ← hsize, ← hvalue]
      exact ⟨rfl, rfl, rfl⟩
  · obtain ⟨-, hfail⟩ := csfDec_meets c b s
    exact hfail sub p hf

end Sys2Proof.Proofs

/-! SUPPORT. Why a list of fields is rejected, the steps of `ENCODE` one by one, and the instants of a request (R117, R127,
R131, R180, R268; log 11). -/

namespace Sys2Proof

open Sys2Proof.Claims

/-! ## A list of fields with one that is rejected -/

theorem putAll_error_of_mem {e : RejectSub} {ps : List Put} (hmem : .error e ∈ ps) : ∃ e', putAll ps = .error e' := by
  cases hps : putAll ps with
  | error e' => exact ⟨e', rfl⟩
  | ok out =>
    exfalso
    induction ps generalizing out with
    | nil => cases hmem
    | cons p ps ih =>
      obtain ⟨a, rest, rfl, hrest, -⟩ := (putAll_cons_ok_iff p ps out).mp hps
      obtain h | hmem := List.mem_cons.mp hmem
      · cases h
      · exact ih hmem rest hrest

/-- Where the fields up to a rejected one can be rejected for its reason alone, that is the reason of the whole (R268). -/
theorem putAll_append_error {e : RejectSub} {ps : List Put} (qs : List Put) (hmem : .error e ∈ ps)
    (honly : ∀ p ∈ ps, ∀ e', p = .error e' → e' = e) : putAll (ps ++ qs) = .error e := by
  induction ps with
  | nil => cases hmem
  | cons p ps ih =>
    cases p with
    | error e' =>
      obtain rfl : e' = e := honly _ List.mem_cons_self _ rfl
      rfl
    | ok a =>
      have hrest : putAll (ps ++ qs) = .error e := by
        refine ih ?_ fun p hp => honly p (List.mem_cons_of_mem _ hp)
        obtain h | hmem := List.mem_cons.mp hmem
        · cases h
        · exact hmem
      simp only [List.cons_append, putAll, hrest]

theorem putUInt_error {n v : Nat} {e : RejectSub} (h : putUInt n v = .error e) : e = .range := by
  unfold putUInt at h
  split_ifs at h
  cases h
  rfl

theorem check_error {x : Bool} {e e' : RejectSub} (h : check x e = .error e') : e' = e := by
  unfold check at h
  split_ifs at h
  cases h
  rfl

theorem putTs_error {t : Bytes} {e : RejectSub} (h : putTs t = .error e) : e = .range := by
  unfold putTs at h
  split_ifs at h
  cases h
  rfl

theorem putStr_ne_error {w : Nat} {x : Bytes} (hx : FitsField w x) (e : RejectSub) : putStr w x ≠ .error e := by
  obtain ⟨hlength, hascii⟩ := hx
  rw [putStr_of_fits hlength hascii]
  exact fun h => by cases h

theorem FrameType.code_lt (t : FrameType) : t.code < 2 ^ 32 := by
  cases t <;> decide

namespace Machine

/-! ## Header and trailer -/

theorem hdrEnc_of_fits {ty toff sq se : Nat} {cr de : Bytes} (hty : ty < 2 ^ 32) (htoff : toff < 2 ^ 32)
    (hcr : FitsField 8 cr) (hde : FitsField 8 de) (hsq : sq < 2 ^ 64) (hse : se < 2 ^ 32) :
    hdrEnc ty toff cr de sq se
      = .ok (toBe 4 ty ++ toBe 4 toff ++ padTo 8 cr ++ padTo 8 de ++ toBe 8 sq ++ toBe 4 se) := by
  obtain ⟨hcrlen, hcrascii⟩ := hcr
  obtain ⟨hdelen, hdeascii⟩ := hde
  simp only [hdrEnc, putU32, putU64, putUInt_of_lt (n := 4) hty, putUInt_of_lt (n := 4) htoff, putStr_of_fits hcrlen hcrascii,
    putStr_of_fits hdelen hdeascii, putUInt_of_lt (n := 8) hsq, putUInt_of_lt (n := 4) hse, putAll, List.append_nil,
    List.append_assoc]

theorem trlBody_of_fits {kid : Nat} {av : Bytes} (hkid : kid < 2 ^ 32) (hav : av.length < 2 ^ 32) :
    trlBody kid av = .ok (toBe 4 kid ++ toBe 4 av.length ++ av ++ zeros (padlen av.length)) := by
  simp only [trlBody, putU32, putBytes, putUInt_of_lt (n := 4) hkid, putUInt_of_lt (n := 4) hav, putAll, List.append_nil,
    List.append_assoc]

section HeaderRejections

variable {ty toff : Nat} (sq se : Nat) {cr : Bytes} (hty : ty < 2 ^ 32) (htoff : toff < 2 ^ 32)
include hty htoff

theorem hdrEnc_of_creator {e : RejectSub} (de : Bytes) (hcr : putStr 8 cr = .error e) :
    hdrEnc ty toff cr de sq se = .error e := by
  simp only [hdrEnc, putU32, putUInt_of_lt (n := 4) hty, putUInt_of_lt (n := 4) htoff, hcr, putAll]

theorem hdrEnc_of_dest {e : RejectSub} {de : Bytes} (hcr : FitsField 8 cr) (hde : putStr 8 de = .error e) :
    hdrEnc ty toff cr de sq se = .error e := by
  obtain ⟨hcrlen, hcrascii⟩ := hcr
  simp only [hdrEnc, putU32, putUInt_of_lt (n := 4) hty, putUInt_of_lt (n := 4) htoff, putStr_of_fits hcrlen hcrascii, hde,
    putAll]

end HeaderRejections

/-- With names that fit, the header can be rejected for an integer out of range alone. -/
theorem hdrEnc_of_range {ty toff sq se : Nat} {cr de : Bytes} (hcr : FitsField 8 cr) (hde : FitsField 8 de)
    (hrange : 2 ^ 64 ≤ sq ∨ 2 ^ 32 ≤ se) : hdrEnc ty toff cr de sq se = .error .range := by
  rw [hdrEnc, ← List.append_nil (_ :: _)]
  refine putAll_append_error [] ?_ ?_
  · obtain hsq | hse := hrange
    · simp [putU64, putUInt_of_ge (n := 8) hsq]
    · simp [putU32, putUInt_of_ge (n := 4) hse]
  · simp only [List.forall_mem_cons, List.not_mem_nil, false_implies, implies_true, and_true]
    exact ⟨fun _ => putUInt_error, fun _ => putUInt_error, fun e h => absurd h (putStr_ne_error hcr e),
      fun e h => absurd h (putStr_ne_error hde e), fun _ => putUInt_error, fun _ => putUInt_error⟩

theorem trlBody_of_range {kid : Nat} {av : Bytes} (hrange : 2 ^ 32 ≤ kid ∨ 2 ^ 32 ≤ av.length) :
    trlBody kid av = .error .range := by
  rw [trlBody, ← List.append_nil (_ :: _)]
  refine putAll_append_error [] ?_ ?_
  · obtain hkid | hav := hrange
    · simp [putU32, putUInt_of_ge (n := 4) hkid]
    · simp [putU32, putUInt_of_ge (n := 4) hav]
  · simp only [List.forall_mem_cons, List.not_mem_nil, false_implies, implies_true, and_true]
    exact ⟨fun _ => putUInt_error, fun _ => putUInt_error, fun _ h => by cases h⟩

/-! ## `ENCODE` step by step -/

theorem encodeReq_of_error {c : Cfg} {req : EncReq} {e : RejectSub} (s : State) (h : encodeFrame c req = .error e) :
    encodeReq c req s = rejectedWith e.code s := by
  simp only [encodeReq, h]
  rfl

theorem encodeReq_of_ok {c : Cfg} {req : EncReq} {out : Bytes} (s : State) (h : encodeFrame c req = .ok out) :
    encodeReq c req s = offered out s := by
  simp only [encodeReq, h]
  rfl

theorem exec_encode_of_not_waiting {s : State} (req : EncReq) (hphase : s.phase.waiting = false) :
    exec (.encode req) s = .next (encodeReq Config.cfg req s) := by
  simp [exec, execEncode, hphase]

/-- No variant is tagged with the reserved type (R28). -/
theorem requestTag_code_ne (v : EncVariant) : (requestTag v).code ≠ 13 := by
  cases v with
  | record v => cases v <;> simp [requestTag, Variant.frameType, FrameType.code]
  | rawAcknack => simp [requestTag, FrameType.code]

section Steps

variable {c : Cfg} {req : EncReq} {v : Variant} {body : Bytes}
  (hv : resolveVariant c req = .ok v) (hty : req.frameType = (Variant.frameType v).code)
include hv hty

theorem encodeFrame_of_body_error {e : RejectSub} (hb : bodyEnc c v = .error e) : encodeFrame c req = .error e := by
  simp [encodeFrame, resolveVariant_frameType c req v hv, hty, hv, hb]

variable (hb : bodyEnc c v = .ok body)
include hb

theorem encodeFrame_of_badToff (hbody : body.length = 0 ∨ 2 ^ 32 ≤ hlen + body.length) :
    encodeFrame c req = .error .badToff := by
  simp only [encodeFrame, resolveVariant_frameType c req v hv, hty, hv, hb, ne_eq, not_true_eq_false, if_false, hbody, if_true]

variable (hpos : 0 < body.length) (hfits : hlen + body.length < 2 ^ 32)
include hpos hfits

theorem encodeFrame_of_header_error {e : RejectSub} (hhdr : hdrEnc req.frameType (hlen + body.length) req.frameCreator
    req.frameDestination req.sequenceNumber req.series = .error e) : encodeFrame c req = .error e := by
  have hbody : ¬(body.length = 0 ∨ 2 ^ 32 ≤ hlen + body.length) := by omega
  rw [hty] at hhdr
  simp only [encodeFrame, resolveVariant_frameType c req v hv, hty, hv, hb, ne_eq, not_true_eq_false, if_false, hbody, hhdr]

variable {hdr : Bytes} (hhdr : hdrEnc req.frameType (hlen + body.length) req.frameCreator req.frameDestination
  req.sequenceNumber req.series = .ok hdr)
include hhdr

theorem encodeFrame_of_trailer_error {e : RejectSub} (htrl : trlBody req.authKeyId req.authValue = .error e) :
    encodeFrame c req = .error e := by
  have hbody : ¬(body.length = 0 ∨ 2 ^ 32 ≤ hlen + body.length) := by omega
  rw [hty] at hhdr
  simp only [encodeFrame, resolveVariant_frameType c req v hv, hty, hv, hb, ne_eq, not_true_eq_false, if_false, hbody, hhdr,
    htrl]

theorem encodeFrame_of_tooLarge {trl : Bytes} (htrl : trlBody req.authKeyId req.authValue = .ok trl)
    (hlarge : c.txMax < hdr.length + body.length + trl.length + 8) : encodeFrame c req = .error .tooLarge := by
  have hbody : ¬(body.length = 0 ∨ 2 ^ 32 ≤ hlen + body.length) := by omega
  rw [hty] at hhdr
  simp only [encodeFrame, resolveVariant_frameType c req v hv, hty, hv, hb, ne_eq, not_true_eq_false, if_false, hbody, hhdr,
    htrl, List.length_append, toBe_length, hlarge, if_true]

omit hhdr

variable (hcr : FitsField 8 req.frameCreator) (hde : FitsField 8 req.frameDestination)
include hcr hde

/-- With names that fit, an integer out of range in header or trailer is the reason (R117, R268). -/
theorem encodeFrame_of_range (hrange : 2 ^ 64 ≤ req.sequenceNumber ∨ 2 ^ 32 ≤ req.series ∨ 2 ^ 32 ≤ req.authKeyId
    ∨ 2 ^ 32 ≤ req.authValue.length) : encodeFrame c req = .error .range := by
  by_cases hint : 2 ^ 64 ≤ req.sequenceNumber ∨ 2 ^ 32 ≤ req.series
  · exact encodeFrame_of_header_error hv hty hb hpos hfits (hdrEnc_of_range hcr hde hint)
  · rw [not_or, Nat.not_le, Nat.not_le] at hint
    obtain ⟨hsq, hse⟩ := hint
    have hhdr := hdrEnc_of_fits (hty ▸ FrameType.code_lt (Variant.frameType v)) hfits hcr hde hsq hse
    exact encodeFrame_of_trailer_error hv hty hb hpos hfits hhdr (trlBody_of_range (by omega))

/-- A frame that passes every other check has 36 bytes, the body, 16 bytes and the padded authentication value (R84). -/
theorem encodeFrame_of_txMax_lt (hsq : req.sequenceNumber < 2 ^ 64) (hse : req.series < 2 ^ 32)
    (hkid : req.authKeyId < 2 ^ 32) (hav : req.authValue.length < 2 ^ 32)
    (hlarge : c.txMax < hlen + body.length + 16 + pad4 req.authValue.length) : encodeFrame c req = .error .tooLarge := by
  have hhdr := hdrEnc_of_fits (hty ▸ FrameType.code_lt (Variant.frameType v)) hfits hcr hde hsq hse
  have hpad := add_padlen req.authValue.length
  refine encodeFrame_of_tooLarge hv hty hb hpos hfits hhdr (trlBody_of_fits hkid hav) ?_
  rw [hdrEnc_length hhdr]
  simp only [List.length_append, toBe_length, zeros_length]
  omega

end Steps

/-! ## The instants of a request -/

theorem givenStamp_stampAt (c : Cfg) (req : EncReq) (i : Nat) (own : Bytes) :
    GivenStamp c req i own (stampAt c req.times i own) := by
  refine ⟨fun hnone => ?_, fun t y ht hy => ?_⟩
  · obtain hnone | hnone := hnone <;> simp only [stampAt, hnone]
  · simp only [stampAt, ht, hy]

theorem stampAt_of_unconverted {c : Cfg} {times : List (Option Instant)} {i : Nat} {t : Instant} (own : Bytes)
    (hi : times[i]? = some (some t)) (ht : c.tsEncode t = none) : stampAt c times i own = [] := by
  simp only [stampAt, hi, ht]

@[simp] theorem stampSubframes_length (c : Cfg) (times : List (Option Instant)) (k : Nat) (fs : List ChannelSubframe) :
    (stampSubframes c times k fs).length = fs.length := by
  induction fs generalizing k with
  | nil => rfl
  | cons f fs ih => simp [stampSubframes, ih]

/-- The subframe at place `i` has the instant number `i` after the first one's (R131; log 11). -/
theorem stampSubframes_getElem? (c : Cfg) (times : List (Option Instant)) (fs : List ChannelSubframe) (k i : Nat) :
    (stampSubframes c times k fs)[i]? = fs[i]?.map fun f => { f with timeStamp := stampAt c times (i + k) f.timeStamp } := by
  induction fs generalizing k i with
  | nil => rfl
  | cons f fs ih =>
    cases i with
    | zero => simp [stampSubframes]
    | succ i => simp [stampSubframes, ih, Nat.add_assoc, Nat.add_comm k 1]

theorem resolveVariant_record {c : Cfg} {req : EncReq} {v : Variant} (h : req.variant = .record v) :
    resolveVariant c req = .ok (stampVariant c req.times v) := by
  simp only [resolveVariant, h]

theorem stampVariant_of_no_stamp (c : Cfg) (times : List (Option Instant)) {v : Variant}
    (h : Variant.frameType v ∉ [.data, .commandRequest, .commandResponse]) : stampVariant c times v = v := by
  cases v with
  | data d => simp [Variant.frameType] at h
  | commandRequest r => simp [Variant.frameType] at h
  | commandResponse r => simp [Variant.frameType] at h
  | _ => rfl

theorem resolveVariant_rawAcknack {c : Cfg} {req : EncReq} {fs : Bytes} {lo hi : Int} {n : Nat} {flat : List Int} {a : Acknack}
    (h : req.variant = .rawAcknack fs lo hi n flat) (ha : mkAcknack fs lo hi n flat = .ok a) :
    resolveVariant c req = .ok (.acknack a) := by
  simp only [resolveVariant, h, ha]

/-! ## Instants that do not convert: timestamps without bytes -/

theorem putTs_nil : putTs [] = .error .range := rfl

/-- Before the nominal time a Data body can be rejected with `RANGE` alone (R235, R251; log 19). -/
theorem dataEnc_of_no_nominalTime (c : Cfg) {d : DataFrame} (h : d.header.nominalTime = []) :
    dataEnc c d = .error .range := by
  rw [dataEnc, cshEnc, h]
  refine putAll_append_error (ps := [check (d.subframes.length == d.header.numChannels) .range, putU32 d.header.numChannels,
    putU32 d.header.frameTimeLengthMs, putTs []]) _ (by simp [putTs_nil]) ?_
  simp only [List.forall_mem_cons, List.not_mem_nil, false_implies, implies_true, and_true]
  exact ⟨fun _ => check_error, fun _ => putUInt_error, fun _ => putUInt_error, fun _ => putTs_error⟩

theorem subframesEnc_mem {c : Cfg} {p : Put} {f : ChannelSubframe} {fs : List ChannelSubframe} (hf : f ∈ fs)
    (hp : p ∈ csfEnc c f) : p ∈ subframesEnc c fs := by
  induction fs with
  | nil => cases hf
  | cons g gs ih =>
    obtain rfl | hf := List.mem_cons.mp hf
    · exact List.mem_append_left _ hp
    · exact List.mem_append_right _ (ih hf)

theorem dataEnc_of_no_timeStamp {c : Cfg} {d : DataFrame} {f : ChannelSubframe} (hf : f ∈ d.subframes)
    (h : f.timeStamp = []) : ∃ e, dataEnc c d = .error e := by
  refine putAll_error_of_mem (e := .range) (List.mem_cons_of_mem _ (List.mem_append_right _ (subframesEnc_mem hf ?_)))
  simp [csfEnc, h, putTs_nil]

/-- With names that fit, a missing timestamp is what a command body is rejected for (R202, R204). -/
theorem putAll_of_no_timeStamp {station site chan loc : Bytes} (qs : List Put) (hstation : FitsField 8 station)
    (hsite : FitsField 5 site) (hchan : FitsField 3 chan) (hloc : FitsField 2 loc) :
    putAll ([putStr 8 station, putStr 5 site, putStr 3 chan, putStr 2 loc, putTs []] ++ qs) = .error .range := by
  refine putAll_append_error qs (by simp [putTs_nil]) ?_
  simp only [List.forall_mem_cons, List.not_mem_nil, false_implies, implies_true, and_true]
  exact ⟨fun e h => absurd h (putStr_ne_error hstation e), fun e h => absurd h (putStr_ne_error hsite e),
    fun e h => absurd h (putStr_ne_error hchan e), fun e h => absurd h (putStr_ne_error hloc e), fun _ => putTs_error⟩

/-- A record whose stamped form does not encode is rejected for the body's reason (R268). -/
theorem encodeReq_of_record_error {c : Cfg} {req : EncReq} {v : Variant} {e : RejectSub} (s : State)
    (hv : req.variant = .record v)
    (hty : req.frameType = (Variant.frameType v).code) (hb : bodyEnc c (stampVariant c req.times v) = .error e) :
    encodeReq c req s = rejectedWith e.code s := by
  refine encodeReq_of_error s (encodeFrame_of_body_error (resolveVariant_record hv) ?_ hb)
  rwa [stampVariant_frameType]

section Unconverted

variable {c : Cfg} (s : State) {req : EncReq} {t : Instant} (ht : c.tsEncode t = none)
include ht

theorem encodeReq_of_unconverted_nominalTime {d : DataFrame} (hv : req.variant = .record (.data d))
    (hty : req.frameType = 5) (hi : req.times[0]? = some (some t)) : encodeReq c req s = rejectedWith 3 s :=
  encodeReq_of_record_error s hv hty (dataEnc_of_no_nominalTime c (stampAt_of_unconverted _ hi ht))

theorem encodeReq_of_unconverted_timeStamp {d : DataFrame} {i : Nat} (hv : req.variant = .record (.data d))
    (hty : req.frameType = 5) (hi : i < d.subframes.length) (hti : req.times[i + 1]? = some (some t)) :
    ∃ sub, encodeReq c req s = rejectedWith sub s := by
  have hf := stampSubframes_getElem? c req.times d.subframes 1 i
  rw [List.getElem?_eq_getElem hi, Option.map_some] at hf
  obtain ⟨e, he⟩ := dataEnc_of_no_timeStamp (c := c)
    (d := { header := { d.header with nominalTime := stampAt c req.times 0 d.header.nominalTime }
            subframes := stampSubframes c req.times 1 d.subframes })
    (List.mem_of_getElem? hf) (stampAt_of_unconverted _ hti ht)
  exact ⟨e.code, encodeReq_of_record_error s hv hty he⟩

theorem encodeReq_of_unconverted_commandRequest {r : CommandRequest} (hv : req.variant = .record (.commandRequest r))
    (hty : req.frameType = 8) (hi : req.times[0]? = some (some t)) (hstation : FitsField 8 r.stationName)
    (hsite : FitsField 5 r.siteName) (hchan : FitsField 3 r.channelName) (hloc : FitsField 2 r.locationName) :
    encodeReq c req s = rejectedWith 3 s := by
  refine encodeReq_of_record_error (e := .range) s hv hty ?_
  simp only [stampVariant, bodyEnc, cmdReqEnc, stampAt_of_unconverted _ hi ht]
  exact putAll_of_no_timeStamp _ hstation hsite hchan hloc

theorem encodeReq_of_unconverted_commandResponse {r : CommandResponse} (hv : req.variant = .record (.commandResponse r))
    (hty : req.frameType = 9) (hi : req.times[0]? = some (some t)) (hstation : FitsField 8 r.responderStation)
    (hsite : FitsField 5 r.siteName) (hchan : FitsField 3 r.channelName) (hloc : FitsField 2 r.locationName) :
    encodeReq c req s = rejectedWith 3 s := by
  refine encodeReq_of_record_error (e := .range) s hv hty ?_
  simp only [stampVariant, bodyEnc, cmdRspEnc, stampAt_of_unconverted _ hi ht]
  exact putAll_of_no_timeStamp _ hstation hsite hchan hloc

end Unconverted

end Machine

end Sys2Proof

namespace Sys2Proof.Proofs

open Sys2Proof.Machine Sys2Proof.Claims

/-- Settles O33: the record is the stamped one, and each step of `ENCODE` passes and writes its part of the frame. -/
theorem encodeOffersTheFrame : Obligations.EncodeOffersTheFrame := by
  refine ⟨fun c req => ⟨fun v hv => ⟨_, resolveVariant_record hv, ?_, ?_, ?_, stampVariant_of_no_stamp c req.times⟩,
    fun fs lo hi n flat a => resolveVariant_rawAcknack⟩, ?_⟩
  · rintro d rfl
    refine ⟨_, _, rfl, givenStamp_stampAt .., stampSubframes_length .., fun i f hf => ⟨_, ?_, givenStamp_stampAt ..⟩⟩
    rw [stampSubframes_getElem?, hf, Option.map_some]
  · rintro r rfl
    exact ⟨_, rfl, givenStamp_stampAt ..⟩
  · rintro r rfl
    exact ⟨_, rfl, givenStamp_stampAt ..⟩
  · intro s req v body hphase hv hty hb hpos hbody hcr hde hsq hse hkid hav hmax front hfront
    have hhdr := hdrEnc_of_fits (hty ▸ FrameType.code_lt (Variant.frameType v)) hbody hcr hde hsq hse
    have htrl := trlBody_of_fits hkid hav
    have hout : encodeFrame Config.cfg req = .ok (front ++ toBe 8 (Config.cfg.crc64 (front ++ zeros 8)).toNat) := by
      refine (encodeFrame_ok_iff ..).mpr
        ⟨v, body, _, _, hv, hty, hb, Nat.ne_of_gt hpos, hbody, hhdr, htrl, ?_, ?_⟩
      · simp only [hfront, crcGen, padTo, List.append_assoc]
      · obtain ⟨hcrlen, -⟩ := hcr
        obtain ⟨hdelen, -⟩ := hde
        have hpad := add_padlen req.authValue.length
        simp only [hfront, List.length_append, toBe_length, zeros_length]
        omega
    refine ⟨_, rfl, ?_, Memory.read_ofBytes _⟩
    rw [exec_encode_of_not_waiting req hphase, encodeReq_of_ok s hout]

/-- Settles O34, check by check in the order of R268. -/
theorem encodeRejections : Obligations.EncodeRejections := by
  refine ⟨fun s req => exec_encode_of_not_waiting req, fun c s req => ?_, fun c s req v hv hty => ?_, fun c s req t ht => ?_⟩
  · have hmismatch (hne : req.frameType ≠ (requestTag req.variant).code) : encodeReq c req s = rejectedWith 1 s :=
      encodeReq_of_error s (encodeFrame_typeMismatch c req hne)
    refine ⟨fun v hv hne => hmismatch ?_, fun fs lo hi n flat hv hne => hmismatch ?_, fun h13 => hmismatch ?_⟩
    · rwa [hv]
    · rwa [hv]
    · rw [h13]
      exact (requestTag_code_ne _).symm
  · refine ⟨fun e hb => encodeReq_of_error s (encodeFrame_of_body_error hv hty hb), fun body hb =>
      ⟨fun hbody => ?_, fun hpos hfits => ?_⟩⟩
    · exact encodeReq_of_error s (encodeFrame_of_badToff hv hty hb (hbody.imp_left List.length_eq_zero_iff.mpr))
    have hcode : req.frameType < 2 ^ 32 := hty ▸ FrameType.code_lt (Variant.frameType v)
    have hheader {e : RejectSub} (h : hdrEnc req.frameType (hlen + body.length) req.frameCreator req.frameDestination
        req.sequenceNumber req.series = .error e) : encodeReq c req s = rejectedWith e.code s :=
      encodeReq_of_error s (encodeFrame_of_header_error hv hty hb hpos hfits h)
    refine ⟨fun hlong => ?_, fun hcrlen hascii => ?_, fun hcr => ⟨fun hlong => ?_, fun hdelen hascii => ?_, fun hde =>
      ⟨fun hrange => ?_, fun hsq hse hkid hav hlarge => ?_⟩⟩⟩
    · exact hheader (hdrEnc_of_creator _ _ hcode hfits _ (putStr_of_long hlong))
    · exact hheader (hdrEnc_of_creator _ _ hcode hfits _ (putStr_of_not_ascii hcrlen hascii))
    · exact hheader (hdrEnc_of_dest _ _ hcode hfits hcr (putStr_of_long hlong))
    · exact hheader (hdrEnc_of_dest _ _ hcode hfits hcr (putStr_of_not_ascii hdelen hascii))
    · exact encodeReq_of_error s (encodeFrame_of_range hv hty hb hpos hfits hcr hde hrange)
    · exact encodeReq_of_error s (encodeFrame_of_txMax_lt hv hty hb hpos hfits hcr hde hsq hse hkid hav hlarge)
  · exact ⟨fun d hv hty => ⟨fun hi => encodeReq_of_unconverted_nominalTime s ht hv hty hi,
        fun i hi hti => encodeReq_of_unconverted_timeStamp s ht hv hty hi hti⟩,
      fun r => encodeReq_of_unconverted_commandRequest s ht, fun r => encodeReq_of_unconverted_commandResponse s ht⟩

end Sys2Proof.Proofs

/-! SUPPORT. A poll step whose awaited region has not arrived, and regions that end the read: the branches of R143 that the
reading of a whole frame does not take (R144, R146, R147, R149, R150, R152, R272). -/

namespace Sys2Proof.Machine

open Sys2Proof.Claims

/-! ## The awaited region is not there -/

/-- Without the awaited bytes the transport is not asked, so its shortness does not matter (R143). -/
theorem pollStep_of_unavailable (c : Cfg) {s : State} {n : Nat} (halt intr : Bool) (short : Option Nat)
    (hn : needLen s = some n) (hshort : s.fifo.length < n) :
    pollStep c halt intr short s = .next (pollUnavailable c halt intr s) := by
  simp only [pollStep, waiting_of_needLen hn, hn, streamAvail, Nat.not_le.mpr hshort, if_true, if_false]

/-- The wait step (R146). -/
theorem pollUnavailable_of_levels_low (c : Cfg) (s : State) : pollUnavailable c false false s = s := rfl

theorem pollUnavailable_of_wHdr (c : Cfg) {halt intr : Bool} {s : State} (hlevel : (halt || intr) = true)
    (hphase : s.phase = .wHdr) : pollUnavailable c halt intr s = cancel c halt s := by
  rw [pollUnavailable, if_pos hlevel, if_pos hphase]

theorem pollUnavailable_of_midframe (c : Cfg) {halt intr : Bool} {s : State} (hlevel : (halt || intr) = true)
    (hphase : s.phase ≠ .wHdr) :
    pollUnavailable c halt intr s = fatalDesync c (if halt then .haltMidframe else .intrMidframe) s := by
  rw [pollUnavailable, if_pos hlevel, if_neg hphase]

/-- A machine that stays where it is does so for any number of steps. -/
theorem run_of_step_eq_self {s : State} (h : step s = .next s) : ∀ k, Host.Core.run Sys2Proof.core k s = .next s
  | 0 => rfl
  | k + 1 => by
    have hrun : Host.Core.run Sys2Proof.core (k + 1) s = Host.Core.run Sys2Proof.core k s := by
      simp only [Host.Core.run, Sys2Proof.core, h]
    rw [hrun, run_of_step_eq_self h k]

/-! ## The ends of a read, their registers written out -/

theorem eposOf_toNat (c : Cfg) {pos : Nat} (h : pos < 2 ^ 32) : (eposOf c pos).toNat = pos := by
  rw [eposOf, if_pos h, BitVec.toNat_ofNat, Nat.mod_eq_of_lt h]

/-- The clean cancel leaves the stream valid (R152). -/
theorem cancel_eq (c : Cfg) (halt : Bool) (s : State) : cancel c halt s =
    { s with cause := 1, subcause := if halt then 1 else 2, epos := 0, phase := .idle, rawValid := false } := by
  cases halt <;> simp [cancel, raise, Err.cause, Err.subcause, Err.desynchronizes, eposOf]

/-- `halt` is the one reported when both levels are 1 (R147, R272). -/
theorem subcause_of_midframe (halt : Bool) :
    (Err.desynchronized (if halt then .haltMidframe else .intrMidframe)).subcause = if halt then 1 else 2 := by
  cases halt <;> rfl

theorem fatalMalformed_eq_fatalEnd (c : Cfg) (sub : MalformedSub) (pos : Nat) (s : State) :
    fatalMalformed c sub pos s = fatalEnd 3 sub.code (eposOf c pos) s := by
  simp only [fatalMalformed, raise, fatalEnd, Err.cause, Err.subcause, Err.desynchronizes, Bool.or_true, if_true]

/-! ## The awaited region is there -/

/-- A poll step takes the awaited bytes off the transport and stores them (R143, R145). -/
theorem pollStep_of_awaited (c : Cfg) {s : State} {n : Nat} (halt intr : Bool) (hn : needLen s = some n)
    (havail : n ≤ s.fifo.length) : pollStep c halt intr none s =
      storeRegion c (s.fifo.take n) { s with spos := s.spos + BitVec.ofNat 64 n, fifo := s.fifo.drop n } := by
  have hfifo : s.fifo = s.fifo.take n ++ s.fifo.drop n := (List.take_append_drop n s.fifo).symm
  have hlength : (s.fifo.take n).length = n := List.length_take_of_le havail
  rw [pollStep_of_prefix c halt intr (hn.trans (congrArg some hlength.symm)) hfifo, consume_of_prefix hfifo, hlength]

theorem storeHeader_of_small (c : Cfg) {d : Bytes} (s : State) (hsmall : be32 d 4 ≤ hlen) :
    storeHeader c d s = fatalEnd 3 2 4 { s with hdrBuf := Memory.ofBytes d } := by
  obtain ⟨-, h⟩ | ⟨hlarge, -⟩ | ⟨hlarge, -⟩ := storeHeader_cases c d s
  · rw [h, fatalMalformed_eq_fatalEnd]
    rfl
  · omega
  · omega

theorem storeHeader_of_large (c : Cfg) {d : Bytes} (s : State) (htoff : hlen < be32 d 4) (hmax : c.bodyMax < be32 d 4 - hlen) :
    storeHeader c d s = fatalEnd 3 3 4 { s with hdrBuf := Memory.ofBytes d } := by
  obtain ⟨hsmall, -⟩ | ⟨-, -, h⟩ | ⟨-, hfits, -⟩ := storeHeader_cases c d s
  · omega
  · rw [h, fatalMalformed_eq_fatalEnd]
    rfl
  · omega

theorem storeTr1_of_large (c : Cfg) (toff : Nat) {d : Bytes} (s : State) (hmax : c.authMax < pad4 (be32 d 4)) :
    storeTr1 c toff d s = fatalEnd 3 3 (eposOf c (toff + 4)) { s with tr1Buf := Memory.ofBytes d } := by
  obtain ⟨-, h⟩ | ⟨hfits, -⟩ := storeTr1_cases c toff d s
  · rw [h, fatalMalformed_eq_fatalEnd]
    rfl
  · omega

/-- The length field of a region is the one that stands in the transport. -/
theorem be32_take {b : Bytes} {o n : Nat} (h : o + 4 ≤ n) : be32 (b.take n) o = be32 b o := by
  have hslice : slice (slice b 0 n) o 4 = slice b (0 + o) 4 := slice_slice b h
  rw [Nat.zero_add] at hslice
  exact congrArg beNat hslice

/-- The body's length is the one that the header just stored gives (R142). -/
theorem needLen_wBody_of_load {s : State} {d : Bytes} (hp : s.phase = .wBody) (h : Memory.load s.hdrBuf 0 hlen = some d) :
    needLen s = some (be32 d 4 - hlen) := by
  simp only [needLen, hp, storedToff_of_load h, Option.map_some]

/-- The poll step of the header (R145). -/
theorem pollStep_wHdr (c : Cfg) {s : State} (halt intr : Bool) (hphase : s.phase = .wHdr) (havail : hlen ≤ s.fifo.length) :
    pollStep c halt intr none s = .next (storeHeader c (s.fifo.take hlen)
      { s with spos := s.spos + BitVec.ofNat 64 hlen, fifo := s.fifo.drop hlen }) := by
  have hn : needLen s = some hlen := by simp only [needLen, hphase]
  rw [pollStep_of_awaited c halt intr hn havail]
  simp only [storeRegion, hphase]

/-- The stored header gives the place of trailer segment 1 in the frame (R142, R145). -/
theorem storeRegion_wTr1 (c : Cfg) (d : Bytes) {s : State} {h : Bytes} (hphase : s.phase = .wTr1)
    (hhdr : Memory.load s.hdrBuf 0 hlen = some h) : storeRegion c d s = .next (storeTr1 c (be32 h 4) d s) := by
  simp only [storeRegion, hphase, storedToff_of_load hhdr]

/-- The poll step of trailer segment 1 (R145). -/
theorem pollStep_wTr1 (c : Cfg) {s : State} {h : Bytes} (halt intr : Bool) (hphase : s.phase = .wTr1)
    (hhdr : Memory.load s.hdrBuf 0 hlen = some h) (havail : tr1Len ≤ s.fifo.length) :
    pollStep c halt intr none s = .next (storeTr1 c (be32 h 4) (s.fifo.take tr1Len)
      { s with spos := s.spos + BitVec.ofNat 64 tr1Len, fifo := s.fifo.drop tr1Len }) := by
  have hn : needLen s = some tr1Len := by simp only [needLen, hphase]
  exact (pollStep_of_awaited c halt intr hn havail).trans (storeRegion_wTr1 c _ hphase hhdr)

end Sys2Proof.Machine

namespace Sys2Proof.Proofs

open Sys2Proof.Machine

/-- Settles O39: with both levels 0 the unavailable branch is the identity, and a step with no move pending takes it. -/
theorem waitStepChangesNothing : Obligations.WaitStepChangesNothing := by
  intro s n _ hn hshort
  have hpoll (c : Cfg) (short : Option Nat) : pollStep c false false short s = .next s := by
    rw [pollStep_of_unavailable c false false short hn hshort, pollUnavailable_of_levels_low]
  refine ⟨hpoll, fun hs => run_of_step_eq_self ?_⟩
  rw [step, hs]
  exact hpoll Config.cfg none

/-- Settles O40: the levels are looked at in the unavailable branch alone, and the phase selects the end there. -/
theorem cancellationIsCleanOnlyAtTheStart : Obligations.CancellationIsCleanOnlyAtTheStart := by
  intro c s short n halt intr hn
  refine ⟨fun havail => ?_, fun hshort hlevel => ⟨fun hphase => ?_, fun hphase => ⟨?_, eposOf_toNat c⟩⟩⟩
  · rw [pollStep_of_available c halt intr short hn havail, pollStep_of_available c false false short hn havail]
  · rw [pollStep_of_unavailable c halt intr short hn hshort, pollUnavailable_of_wHdr c hlevel hphase, cancel_eq]
  · have hne : s.phase ≠ .wHdr := by obtain h | h | h := hphase <;> simp [h]
    rw [pollStep_of_unavailable c halt intr short hn hshort, pollUnavailable_of_midframe c hlevel hne,
      fatalDesync_eq_fatalEnd, subcause_of_midframe]

/-- Settles O42: the header is stored, and its length field selects one of the three ends of `storeHeader`. -/
theorem headerRegionSizesTheBody : Obligations.HeaderRegionSizesTheBody := by
  rintro c s u halt intr hphase havail rfl
  have htoff : be32 (s.fifo.take hlen) 4 = be32 s.fifo 4 := be32_take (by decide)
  have hload : Memory.load (Memory.ofBytes (s.fifo.take hlen)) 0 hlen = some (s.fifo.take hlen) := by
    have hlength : (s.fifo.take hlen).length = hlen := List.length_take_of_le havail
    simpa only [hlength] using Memory.load_ofBytes (s.fifo.take hlen)
  rw [pollStep_wHdr c halt intr hphase havail, ← htoff]
  refine ⟨fun hsmall => ?_, fun hlarge hmax => ?_, fun hlarge hmax => ⟨?_, needLen_wBody_of_load rfl hload⟩⟩
  · rw [storeHeader_of_small c _ hsmall]
    rfl
  · rw [storeHeader_of_large c _ hlarge hmax]
    rfl
  · rw [storeHeader_of_fits c _ hlarge hmax]
    rfl

/-- Settles O43, phase by phase: the stored header or segment 1 gives the awaited length, and the region is stored. -/
theorem laterRegionsCompleteTheFrame : Obligations.LaterRegionsCompleteTheFrame := by
  intro c s h n halt intr hhdr havail
  refine ⟨fun hphase hbody _ => ?_, fun hphase htr1 => ?_, fun t1 hphase htr1 htr2 => ?_⟩
  · have hn : needLen s = some n := hbody ▸ needLen_wBody_of_load hphase hhdr
    rw [pollStep_of_awaited c halt intr hn havail]
    simp only [storeRegion, hphase, storeBody, List.length_take_of_le havail]
  · subst htr1
    have hsize : be32 (s.fifo.take tr1Len) 4 = be32 s.fifo 4 := be32_take (by decide)
    rw [pollStep_wTr1 c halt intr hphase hhdr havail, ← hsize]
    refine ⟨fun hfits => ?_, fun hlarge => ?_⟩
    · rw [storeTr1_of_fits c _ _ hfits]
      rfl
    · rw [storeTr1_of_large c _ _ hlarge]
      rfl
  · have hn : needLen s = some n := htr2 ▸ needLen_wTr2_of_load hphase htr1
    rw [pollStep_of_awaited c halt intr hn havail]
    simp only [storeRegion, hphase, storeTr2, List.length_take_of_le havail]

/-- Settles O26: the refusals are those of every command that needs an idle or a valid stream (R40). -/
theorem rdframeStartsAFrameRead : Obligations.RdframeStartsAFrameRead := by
  refine ⟨fun c hcode => by simp [decodeCommand, hcode], fun s => exec_rdframe_of_ready, fun s hblocked => ?_,
    startRead State.reset, exec_rdframe_of_ready rfl rfl, rfl, rfl, ?_⟩
  · obtain ⟨hbusy, hdesynced, -⟩ := refusedCommands s EncReq.zero []
    cases hphase : s.phase.waiting with
    | true => exact (hbusy hphase).1
    | false =>
      have hdesync : s.desync = true := hblocked.resolve_left (by simp [hphase])
      exact hdesynced hphase hdesync
  · rw [status_getLsbD, if_pos rfl]
    rfl

end Sys2Proof.Proofs

/-! SUPPORT. Reading back what a list of fields wrote: the fields stand in a byte string one after the other, and a decoder
that takes them off in that order gives their values (R110, R181, R268). -/

namespace Sys2Proof

open Sys2Proof.Claims

/-- The bytes of `b` from `o` to `e` are what the fields `ps` write. -/
def Stands (b : Bytes) (o e : Nat) (ps : List Put) : Prop :=
  ∃ pre out suf, putAll ps = .ok out ∧ b = pre ++ out ++ suf ∧ pre.length = o ∧ e = o + out.length

/-- `get` reads `v` off the bytes that `p` writes, whatever surrounds them. -/
def ReadsBack {α : Type} (p : Put) (get : Bytes → Nat → Res α) (v : α) : Prop :=
  ∀ out pre suf, p = .ok out → get (pre ++ out ++ suf) pre.length = .ok v (pre.length + out.length)

/-! ## Fields that stand in a byte string -/

/-- What an encoder wrote stands in its own output from end to end. -/
theorem Stands.of_putAll {ps : List Put} {out : Bytes} (h : putAll ps = .ok out) : Stands out 0 out.length ps :=
  ⟨[], out, [], h, by simp, rfl, by simp⟩

section Stands

variable {b : Bytes} {o e : Nat} {p : Put} {ps : List Put}

theorem Stands.eq_of_nil (h : Stands b o e []) : o = e := by
  obtain ⟨_, out, _, hout, -, -, he⟩ := h
  cases hout
  exact he.symm

/-- The first field is written at the cursor and the others after it. -/
theorem Stands.uncons (h : Stands b o e (p :: ps)) :
    ∃ pre a suf, p = .ok a ∧ b = pre ++ a ++ suf ∧ pre.length = o ∧ Stands b (o + a.length) e ps := by
  obtain ⟨pre, out, suf, hout, hb, ho, he⟩ := h
  obtain ⟨a, rest, hp, hrest, rfl⟩ := (putAll_cons_ok_iff p ps out).mp hout
  refine ⟨pre, a, rest ++ suf, hp, by simp [hb], ho, pre ++ a, rest, suf, hrest, by simp [hb], by simp [ho], ?_⟩
  rw [he, List.length_append, Nat.add_assoc]

/-- A decoder step takes off the first field and goes on with the others. -/
theorem Stands.andThen {α β : Type} {get : Bytes → Nat → Res α} {v : α} {k : α → Nat → Res β} {w : Res β}
    (h : Stands b o e (p :: ps)) (hp : ReadsBack p get v) (hk : ∀ o', Stands b o' e ps → k v o' = w) :
    (get b o).andThen k = w := by
  obtain ⟨pre, a, suf, hput, rfl, rfl, hrest⟩ := h.uncons
  rw [hp a pre suf hput]
  exact hk _ hrest

theorem Stands.getU32 {v : Nat} (h : Stands b o e (putU32 v :: ps)) : be32 b o = v := by
  obtain ⟨pre, a, suf, hput, rfl, rfl, -⟩ := h.uncons
  obtain ⟨hv, rfl⟩ := (putUInt_ok_iff ..).mp hput
  rw [be32, slice_of_eq_append rfl rfl (toBe_length 4 v), beNat_toBe, Nat.mod_eq_of_lt hv]

/-- A precondition writes nothing, and it holds of what has been written. -/
theorem Stands.of_check {x : Bool} {r : RejectSub} (h : Stands b o e (check x r :: ps)) : x = true ∧ Stands b o e ps := by
  obtain ⟨_, a, _, hput, -, -, hrest⟩ := h.uncons
  obtain ⟨hx, rfl⟩ := (check_ok_iff ..).mp hput
  exact ⟨hx, hrest⟩

/-- Fields in two groups stand one group after the other. -/
theorem Stands.split {qs : List Put} (h : Stands b o e (ps ++ qs)) : ∃ m, Stands b o m ps ∧ Stands b m e qs := by
  induction ps generalizing o with
  | nil =>
    obtain ⟨pre, out, suf, hout, hb, ho, he⟩ := h
    exact ⟨o, ⟨pre, [], out ++ suf, rfl, by simp [hb], ho, rfl⟩, pre, out, suf, hout, hb, ho, he⟩
  | cons p ps ih =>
    obtain ⟨pre, a, suf, rfl, hb, ho, hrest⟩ := h.uncons
    obtain ⟨m, ⟨pre', out, suf', hout, hb', ho', hm⟩, hqs⟩ := ih hrest
    refine ⟨m, ⟨pre, a ++ out, suf', ?_, ?_, ho, by rw [hm, List.length_append, Nat.add_assoc]⟩, hqs⟩
    · simp only [putAll, hout]
    · have hpre : pre' = pre ++ a := by
        refine List.append_inj_left (t₁ := out ++ suf') (t₂ := suf) ?_ (by simp [ho, ho'])
        rw [← List.append_assoc, ← hb', hb]
      rw [hb', hpre, List.append_assoc pre]

end Stands

/-! ## Each field reads back -/

theorem putUInt_readsBack (n v : Nat) : ReadsBack (putUInt n v) (getUInt n) v := by
  intro out pre suf hput
  obtain ⟨hv, rfl⟩ := (putUInt_ok_iff ..).mp hput
  rw [getUInt_append_toBe pre suf hv, toBe_length]

theorem putU16_readsBack (v : Nat) : ReadsBack (putU16 v) getU16 v := putUInt_readsBack 2 v

theorem putU32_readsBack (v : Nat) : ReadsBack (putU32 v) getU32 v := putUInt_readsBack 4 v

theorem putI64_readsBack (v : Int) : ReadsBack (putI64 v) getI64 v := by
  intro out pre suf hput
  unfold putI64 at hput
  split_ifs at hput with hv
  cases hput
  rw [getI64_append_toBe pre suf hv.1 hv.2, toBe_length]

theorem putF32_readsBack (x : BitVec 32) : ReadsBack (putF32 x) getF32 x := by
  intro out pre suf hput
  cases hput
  have hword : getU32 (pre ++ toBe 4 x.toNat ++ suf) pre.length = .ok x.toNat (pre.length + 4) :=
    getUInt_append_toBe pre suf x.isLt
  rw [getF32, hword, toBe_length, Res.andThen, BitVec.ofNat_toNat, BitVec.setWidth_eq]

theorem putBytes_readsBack (x : Bytes) : ReadsBack (putBytes x) (fun b o => getBytes b o x.length) x := by
  intro out pre suf hput
  cases hput
  exact (getBytes_ok_iff ..).mpr ⟨by simp, (slice_append_middle ..).symm, rfl⟩

theorem putTs_readsBack (t : Bytes) : ReadsBack (putTs t) getTs t := by
  intro out pre suf hput
  obtain ⟨hlength, rfl⟩ := (putTs_ok_iff ..).mp hput
  rw [getTs, ← hlength]
  exact putBytes_readsBack out out pre suf rfl

theorem putStr_readsBack (w : Nat) (x : Bytes) : ReadsBack (putStr w x) (getStr w) x := by
  intro out pre suf hput
  obtain ⟨hlength, hascii, rfl⟩ := (putStr_ok_iff ..).mp hput
  rw [getStr_append_padTo pre suf hlength hascii, padTo_length w x hlength]

theorem putNonblank_ok_iff (w : Nat) (x out : Bytes) :
    putNonblank w x = .ok out ↔ putStr w x = .ok out ∧ blank x = false := by
  unfold putNonblank
  cases putStr w x <;> cases blank x <;> simp

theorem putNonblank_readsBack (w : Nat) (x : Bytes) : ReadsBack (putNonblank w x) (getNonblank w) x := by
  intro out pre suf hput
  obtain ⟨hstr, hblank⟩ := (putNonblank_ok_iff ..).mp hput
  rw [getNonblank, putStr_readsBack w x out pre suf hstr, Res.andThen, hblank]
  rfl

theorem putVar_readsBack (x : Bytes) : ReadsBack (putVar x) getVar x := by
  intro out pre suf hput
  have hlength := putVar_length hput
  obtain ⟨hx, rfl⟩ := (putVar_ok_iff ..).mp hput
  rw [getVar_append_padding pre suf hx (zeros_length _), hlength, Nat.add_assoc]

theorem putEnum_readsBack (codes : List Byte) (x : Byte) : ReadsBack (putEnum codes x) (getEnum codes) x := by
  intro out pre suf hput
  unfold putEnum at hput
  split_ifs at hput with hmem
  cases hput
  rw [List.append_assoc, List.singleton_append, getEnum, getByte_append_cons]
  exact if_pos hmem

/-- A boolean byte of 0 or 1 is written as it is (R123). -/
theorem putBool_of_canonical {x : BoolByte} (hx : CanonicalBool x) : putBool x = .ok [x.raw] := by
  obtain h | h := hx <;> simp [putBool, BoolByte.val, h]

theorem putBool_readsBack {x : BoolByte} (hx : CanonicalBool x) : ReadsBack (putBool x) getBool x := by
  intro out pre suf hput
  rw [putBool_of_canonical hx] at hput
  cases hput
  rw [List.append_assoc, List.singleton_append, getBool, getByte_append_cons]
  rfl

end Sys2Proof

/-! SUPPORT. The Data encoder's fields read back: subframe, subframes, header, body (R181, R233 to R237, R242, R248, R251). -/

namespace Sys2Proof.Machine

open Sys2Proof.Claims

section DataFields

variable {c : Cfg} {b : Bytes} {o e : Nat}

/-! ## Subframes -/

theorem csfDec_of_stands {f : ChannelSubframe} (h : Stands b o e (csfEnc c f)) (hon : CanonicalBool f.authenticationOn)
    (hcalib : CanonicalBool f.isCalib) : csfDec c b o = .ok f e := by
  rw [csfDec]
  rw [csfEnc] at h
  refine h.andThen (putU32_readsBack _) fun o h => ?_
  obtain ⟨-, h⟩ := h.of_check
  refine h.andThen (putU32_readsBack _) fun o h => ?_
  refine h.andThen (putBool_readsBack hon) fun o h => ?_
  refine h.andThen (putEnum_readsBack _ _) fun o h => ?_
  refine h.andThen (putEnum_readsBack _ _) fun o h => ?_
  refine h.andThen (putBool_readsBack hcalib) fun o h => ?_
  refine h.andThen (putNonblank_readsBack _ _) fun o h => ?_
  refine h.andThen (putNonblank_readsBack _ _) fun o h => ?_
  refine h.andThen (putStr_readsBack _ _) fun o h => ?_
  refine h.andThen (putStr_readsBack _ _) fun o h => ?_
  refine h.andThen (putF32_readsBack _) fun o h => ?_
  refine h.andThen (putF32_readsBack _) fun o h => ?_
  refine h.andThen (putTs_readsBack _) fun o h => ?_
  refine h.andThen (putU32_readsBack _) fun o h => ?_
  refine h.andThen (putU32_readsBack _) fun o h => ?_
  refine h.andThen (putVar_readsBack _) fun o h => ?_
  refine h.andThen (putVar_readsBack _) fun o h => ?_
  refine h.andThen (putU32_readsBack _) fun o h => ?_
  refine h.andThen (putU32_readsBack _) fun o h => ?_
  refine h.andThen (putVar_readsBack _) fun o h => ?_
  rw [h.eq_of_nil]

/-- The encoder takes a subframe only with the `channel_length` that its bytes have (R242, R243). -/
theorem channelLength_of_stands {f : ChannelSubframe} (h : Stands b o e (csfEnc c f)) : f.channelLength = sflen f - 4 := by
  obtain ⟨_, _, _, -, -, -, h⟩ := h.uncons
  obtain ⟨hlength, -⟩ := h.of_check
  exact beq_iff_eq.mp hlength

/-- A subframe that decodes used `SFLEN` bytes (R243). -/
theorem cursor_of_csfDec {f : ChannelSubframe} (h : csfDec c b o = .ok f e) : e = o + sflen f := by
  obtain ⟨hok, -⟩ := csfDec_meets c b o
  obtain ⟨rfl, rfl, hfits⟩ := hok f e h
  exact subframeEnd_eq hfits

theorem sflen_ge (f : ChannelSubframe) : 80 ≤ sflen f := by
  unfold sflen
  omega

theorem slotsDec_of_stands {hd : ChannelSubframeHeader} {fs : List ChannelSubframe} (h : Stands b o e (subframesEnc c fs))
    (hcanon : CanonicalVariant (.data { header := hd, subframes := fs })) (i : Nat) :
    slotsDec c b fs.length i o = { subframes := fs, skips := [], chlen := false, cursor := e } := by
  induction fs generalizing o i with
  | nil => rw [h.eq_of_nil]; rfl
  | cons f fs ih =>
    obtain ⟨m, hf, hfs⟩ := Stands.split h
    obtain ⟨⟨hon, hcalib⟩, hcanon⟩ := List.forall_mem_cons.mp hcanon
    have hdec := csfDec_of_stands hf hon hcalib
    have hused : (m - o != 4 + f.channelLength) = false := by
      have hge := sflen_ge f
      rw [cursor_of_csfDec hdec, channelLength_of_stands hf, bne_eq_false_iff_eq]
      omega
    simp only [List.length_cons, slotsDec, hdec, ih hfs hcanon, hused, Bool.or_false]

/-! ## Header -/

/-- No realignment before what the encoder writes after the header: a subframe begins with a `channel_length` that is not
0, and without subframes the body is at its end (R234, R242). -/
theorem realignAt_of_stands {fs : List ChannelSubframe} (on : Bool) (h : Stands b o b.length (subframesEnc c fs)) :
    realignAt on b o = (o, false) := by
  have hpeek : peek4 b o ≠ some (zeros 4) := by
    intro hzero
    simp only [peek4, Option.ite_none_right_eq_some, Option.some.injEq] at hzero
    obtain ⟨hfits, hword⟩ := hzero
    cases fs with
    | nil =>
      have hend := h.eq_of_nil
      omega
    | cons f fs =>
      obtain ⟨m, hf, -⟩ := Stands.split h
      have hlength := channelLength_of_stands hf
      have hge := sflen_ge f
      have hfirst : be32 b o = f.channelLength := Stands.getU32 hf
      have hnull : be32 b o = 0 := by rw [be32, hword]; rfl
      omega
  simp [realignAt, hpeek]

/-- A string put with its padding reads back as a string and a skip (R120, R235). -/
theorem getBytes_skip_of_stands {α : Type} {x : Bytes} {k : Bytes → Nat → Res α} {ps : List Put} {w : Res α}
    (h : Stands b o e (putBytes (x ++ zeros (padlen x.length)) :: ps)) (hk : ∀ o', Stands b o' e ps → k x o' = w) :
    ((getBytes b o x.length).andThen fun cs o => (skip b o (padlen x.length)).andThen fun _ o => k cs o) = w := by
  obtain ⟨pre, a, suf, hput, rfl, rfl, h⟩ := h.uncons
  cases hput
  have hbytes := putBytes_readsBack x x pre (zeros (padlen x.length) ++ suf) rfl
  rw [← List.append_assoc, List.append_assoc pre] at hbytes
  simp only [hbytes, Res.andThen]
  rw [skip, need_of_le _ _ _ _ (by simp only [List.length_append, zeros_length]; omega)]
  refine hk _ ?_
  simpa [Nat.add_assoc] using h

theorem cshDec_of_stands {h : ChannelSubframeHeader} (realign : Bool) (hs : Stands b 0 e (cshEnc h)) :
    cshDec realign b = .ok (h, (realignAt realign b e).2) (realignAt realign b e).1 := by
  rw [cshDec]
  rw [cshEnc] at hs
  refine hs.andThen (putU32_readsBack _) fun o hs => ?_
  refine hs.andThen (putU32_readsBack _) fun o hs => ?_
  refine hs.andThen (putTs_readsBack _) fun o hs => ?_
  obtain ⟨hcount, hs⟩ := hs.of_check
  refine hs.andThen (putU32_readsBack _) fun o hs => ?_
  rw [if_neg (not_not.mpr (beq_iff_eq.mp hcount))]
  refine getBytes_skip_of_stands hs fun o hs => ?_
  rw [hs.eq_of_nil]

/-! ## The body -/

theorem dataDec_of_dataEnc (realign : Bool) {d : DataFrame} {out : Bytes} (h : dataEnc c d = .ok out)
    (hcanon : CanonicalVariant (.data d)) :
    dataDec c realign out = .ok { v := .data d, skips := [], warn := 0 } out.length := by
  obtain ⟨hcount, hs⟩ := (Stands.of_putAll h).of_check
  obtain ⟨m, hheader, hsubframes⟩ := hs.split
  have hslots := slotsDec_of_stands hsubframes hcanon 0
  rw [beq_iff_eq.mp hcount] at hslots
  rw [dataDec, cshDec_of_stands realign hheader, realignAt_of_stands realign hsubframes]
  simp only [Res.andThen, hslots]
  rfl

end DataFields

end Sys2Proof.Machine

namespace Sys2Proof.Proofs

open Sys2Proof.Machine

/-- Settles O16: the fields stand in the output in the order in which the decoder takes them off. -/
theorem dataRoundTrip : Obligations.DataRoundTrip := fun _ realign _ _ => dataDec_of_dataEnc realign

end Sys2Proof.Proofs

/-! SUPPORT. `DECODE` over held regions, outcome by outcome: the stage that fails first, or every register from its bytes
(R161, R166, R178, R273). -/

namespace Sys2Proof.Machine

open Sys2Proof.Claims

/-! ## The stages -/

theorem hdrDec_of_badToff {h : Bytes} {ty : FrameType} (hlength : h.length = hlen) (hty : be32 h 0 = ty.code)
    (htoff : be32 h 4 ≤ hlen) : hdrDec h = .error (.badToff, 4) := by
  have hcode : FrameType.ofCode (be32 h 0) = some ty := (FrameType.ofCode_eq_some_iff _ ty).mpr hty
  simp only [hdrDec_eq h hlength, headerChecks, hcode, htoff, if_true]

/-- A header that passes its tests gives the registers its fields (R81, R161). -/
theorem exists_hdrDec_ok {h : Bytes} {ty : FrameType} (hlength : h.length = hlen) (hty : be32 h 0 = ty.code)
    (htoff : hlen < be32 h 4) :
    ∃ hd, hdrDec h = .ok hd ∧ hd.ty = ty ∧ hd.toff.toNat = be32 h 4 ∧ ∀ s, setHeader hd s = withHeader h s := by
  rw [hdrDec_eq h hlength]
  refine ⟨_, (headerChecks_ok_iff ..).mpr ⟨ty, (FrameType.ofCode_eq_some_iff _ ty).mpr hty, htoff, rfl⟩, rfl, by simp,
    fun s => ?_⟩
  rw [withHeader, hty]
  rfl

theorem trlDec_of_short {t1 t2 : Bytes} (toff : BitVec 32) (h1 : t1.length = tr1Len)
    (h2 : t2.length < pad4 (be32 t1 4) + ckLen) : trlDec toff t1 t2 = .error (.shortAuth, toff.toNat + 8) := by
  have hkeyid : getU32 t1 0 = .ok (be32 t1 0) 4 := (getUInt_ok_iff ..).mpr ⟨by rw [h1]; decide, rfl, rfl⟩
  have hsize : getU32 t1 4 = .ok (be32 t1 4) 8 := (getUInt_ok_iff ..).mpr ⟨h1.ge, rfl, rfl⟩
  simp only [trlDec, hkeyid, hsize, stage, h2, if_true]

theorem heldRegions_tr1_length {s : State} {r : Regions} (h : heldRegions s = some r) : r.tr1.length = tr1Len := by
  obtain ⟨-, -, htr1, -⟩ := (heldRegions_eq_some_iff s r).mp h
  exact Memory.load_length _ _ _ _ htr1

/-- The warnings of a body and the one about its length, where none was flagged before (R33, R209). -/
theorem setBody_warn_of_clear (b : Body) (k len : Nat) {s : State} (hwarn : s.warn = 0) :
    (setBody b k len s).warn = b.warn ||| (if k = len then 0 else 1) := by
  by_cases hk : k = len <;> simp [hwarn, warnIf, warnBodylen, hk]

/-! ## The outcomes -/

section Outcomes

variable {c : Cfg} {r : Regions} {ty : FrameType} {s : State}
  (hlength : r.hdr.length = hlen) (hty : be32 r.hdr 0 = ty.code) (htoff : hlen < be32 r.hdr 4)
include hlength hty htoff

theorem decodeRegionsHeld_of_body_fail {sub : MalformedSub} {p : Nat}
    (hb : bodyDec c s.realign ty r.body = .fail sub p) :
    decodeRegionsHeld c r s = raise c .command (.malformed sub) (hlen + p) (withHeader r.hdr s) := by
  obtain ⟨hd, hok, rfl, -, hset⟩ := exists_hdrDec_ok hlength hty htoff
  simp only [decodeRegionsHeld, runDecode, hok, hb, hset]

variable {b : Body} {k : Nat} (hb : bodyDec c s.realign ty r.body = .ok b k) (htr1 : r.tr1.length = tr1Len)
include hb htr1

theorem decodeRegionsHeld_of_short_auth (htr2 : r.tr2.length < pad4 (be32 r.tr1 4) + ckLen) :
    decodeRegionsHeld c r s = raise c .command (.malformed .shortAuth) (be32 r.hdr 4 + 8)
      (setBody b k r.body.length (withHeader r.hdr s)) := by
  obtain ⟨hd, hok, rfl, hpos, hset⟩ := exists_hdrDec_ok hlength hty htoff
  simp only [decodeRegionsHeld, runDecode, hok, hb, trlDec_of_short hd.toff htr1 htr2, hset, hpos]

/-- Every register from its place in the bytes (R161, R166, R178). -/
theorem decodeRegionsHeld_of_ok (htr2 : pad4 (be32 r.tr1 4) + ckLen ≤ r.tr2.length) (hwarn : s.warn = 0) :
    decodeRegionsHeld c r s = withBodyAndTrailer r b k (withHeader r.hdr s) := by
  obtain ⟨hd, hok, rfl, -, hset⟩ := exists_hdrDec_ok hlength hty htoff
  have hflagged := setBody_warn_of_clear (s := withHeader r.hdr s) b k r.body.length hwarn
  simp only [decodeRegionsHeld, runDecode, hok, hb, trlDec_eq hd.toff r.tr1 r.tr2 htr1 htr2, hset]
  rw [withBodyAndTrailer, ← hflagged]
  rfl

end Outcomes

end Sys2Proof.Machine

namespace Sys2Proof.Proofs

open Sys2Proof.Machine Sys2Proof.Claims

/-- Settles O27: the three stages pass over the state with the decode registers cleared. -/
theorem decodeDeliversTheHeldFrame : Obligations.DecodeDeliversTheHeldFrame := by
  intro s r ty b k hraw hheld hty htoff hb htr2
  rw [exec_decode_of_held hraw hheld, decodeRegionsHeld_of_ok (s := beginDecode s) (heldRegions_hdr_length hheld) hty htoff hb
    (heldRegions_tr1_length hheld) htr2 rfl]
  rfl

/-- Settles O28, stage by stage. -/
theorem decodeReportsTheFirstFailure : Obligations.DecodeReportsTheFirstFailure := by
  intro s r hraw hheld
  have hlength := heldRegions_hdr_length hheld
  rw [exec_decode_of_held hraw hheld]
  refine ⟨fun hunknown => ?_, fun ty hty => ⟨fun htoff => ?_, fun htoff => ⟨fun sub p hb => ?_, fun b k hb htr2 => ?_⟩⟩⟩
  · have hnone : FrameType.ofCode (be32 r.hdr 0) = none :=
      Option.eq_none_iff_forall_ne_some.mpr fun ty h => hunknown ty ((FrameType.ofCode_eq_some_iff _ ty).mp h)
    rw [decodeRegionsHeld_of_header_error _ (hdrDec_of_unknown hlength hnone), raise_beginDecode_eq_cleared]
    rfl
  · rw [decodeRegionsHeld_of_header_error _ (hdrDec_of_badToff hlength hty htoff), raise_beginDecode_eq_cleared]
    rfl
  · rw [decodeRegionsHeld_of_body_fail (s := beginDecode s) hlength hty htoff hb]
    rfl
  · obtain ⟨hstream, hregions, hout⟩ := decodeRegionsHeld_frame Config.cfg r (beginDecode s)
    have hresult := decodeRegionsHeld_of_short_auth (s := beginDecode s) hlength hty htoff hb (heldRegions_tr1_length hheld) htr2
    refine ⟨_, rfl, ?_, ?_, ?_, ?_, ?_, hstream, hregions, hout⟩ <;> rw [hresult] <;> rfl

/-- Settles O31: `VERIFY` of a held and decoded frame is the comparison alone. -/
theorem verifyComparesTheReceivedBytes : Obligations.VerifyComparesTheReceivedBytes := fun _ _ hraw hdecoded hheld =>
  exec_verify_of_held hraw hdecoded hheld

end Sys2Proof.Proofs

/-! SUPPORT. `DECODEBUF`: the split of a buffer and its failures, and the decode of the frame it starts with (R172, R179). -/

namespace Sys2Proof

/-- A frame's `trailer_offset`, read in its bytes (R51, R81). -/
theorem be32_bytes_toff {r : Regions} (rest : Bytes) (hhdr : r.hdr.length = hlen) :
    be32 (r.bytes ++ rest) 4 = be32 r.hdr 4 :=
  be32_of_eq_append (pre := []) (suf := r.body ++ r.tr1 ++ r.tr2 ++ rest) (by simp [Regions.bytes]) rfl (by rw [hhdr]; decide)

/-- A frame's `auth_size`, read in its bytes (R51, R82). -/
theorem be32_bytes_authSize {r : Regions} (rest : Bytes) (hhdr : r.hdr.length = hlen) (htr1 : r.tr1.length = tr1Len) :
    be32 (r.bytes ++ rest) (hlen + r.body.length + 4) = be32 r.tr1 4 :=
  be32_of_eq_append (pre := r.hdr ++ r.body) (suf := r.tr2 ++ rest) (by simp [Regions.bytes]) (by simp [hhdr]) htr1.ge

end Sys2Proof

namespace Sys2Proof.Machine

open Sys2Proof.Claims

theorem exec_decodebuf_of_not_waiting (buf : Bytes) {s : State} (hphase : s.phase.waiting = false) :
    exec (.decodebuf buf) s = .next (decodeBuf Config.cfg buf s) := by
  simp [exec, execDecodebuf, hphase]

/-- A complete frame is split off the front of a buffer, whatever follows it (R179). -/
theorem splitBuf_bytes_append {c : Cfg} {r : Regions} (rest : Bytes) (hr : CompleteFrame c r) :
    splitBuf c (r.bytes ++ rest) = .ok r := by
  have hlength : (r.bytes ++ rest).length = hlen + r.body.length + tr1Len + (pad4 (be32 r.tr1 4) + ckLen) + rest.length := by
    simp only [Regions.bytes, List.length_append, hr.hdr_length, hr.tr1_length, hr.tr2_length]
  have hpos := hr.body_pos
  refine (splitBuf_ok_iff ..).mpr ?_
  rw [be32_bytes_toff rest hr.hdr_length, hr.toff_eq, be32_bytes_authSize rest hr.hdr_length hr.tr1_length,
    regionsAt_bytes_append rest hr.hdr_length hr.tr1_length hr.tr2_length, hlength]
  simp only [hlen, tr1Len, ckLen, Nat.add_sub_cancel_left]
  exact ⟨by omega, by omega, hr.body_fits, by omega, hr.auth_fits, by omega, trivial⟩

/-- A buffer that starts with a complete frame whose body decodes: the frame held, decoded and checked (R172, R179). -/
theorem decodeBuf_bytes_append {c : Cfg} {r : Regions} {ty : FrameType} {b : Body} {k : Nat} (rest : Bytes) {s : State}
    (hr : CompleteFrame c r) (hty : be32 r.hdr 0 = ty.code) (hb : bodyDec c s.realign ty r.body = .ok b k) :
    decodeBuf c (r.bytes ++ rest) s
      = checkCrc c r.bytes (withBodyAndTrailer r b k (withHeader r.hdr (setRegions r (beginDecodebuf s)))) := by
  have htoff : hlen < be32 r.hdr 4 := by
    have hpos := hr.body_pos
    rw [hr.toff_eq]
    omega
  have hheld : decodeRegionsHeld c r (setRegions r (beginDecodebuf s))
      = withBodyAndTrailer r b k (withHeader r.hdr (setRegions r (beginDecodebuf s))) :=
    decodeRegionsHeld_of_ok hr.hdr_length hty htoff hb hr.tr1_length hr.tr2_length.ge rfl
  simp only [decodeBuf, splitBuf_bytes_append rest hr, hheld]
  rfl

theorem decodeBuf_of_split_error {c : Cfg} {buf : Bytes} {sub : MalformedSub} {pos : Nat} (s : State)
    (h : splitBuf c buf = .error (sub, pos)) :
    decodeBuf c buf s = { cleared 3 sub.code (eposOf c pos) s with phase := .idle, rawValid := false } := by
  simp only [decodeBuf, h]
  rfl

end Sys2Proof.Machine

namespace Sys2Proof.Proofs

open Sys2Proof.Machine

/-- Settles O35: the frame is split off, decoded and checked, and the transport is not asked. -/
theorem decodebufDeliversTheFrame : Obligations.DecodebufDeliversTheFrame := by
  intro s r rest ty b k hphase hr hty hb
  rw [exec_decodebuf_of_not_waiting _ hphase, decodeBuf_bytes_append rest hr hty hb]
  rfl

/-- Settles O36, check by check in the order of the split. -/
theorem decodebufSplitFailures : Obligations.DecodebufSplitFailures := by
  refine ⟨fun buf s => exec_decodebuf_of_not_waiting buf, fun c buf s stop hstop => ?_⟩
  have hsplit (sub : MalformedSub) (pos : Nat) (h : splitBuf c buf = .error (sub, pos)) :
      decodeBuf c buf s = stop sub.code pos := by
    rw [decodeBuf_of_split_error s h, hstop]
  refine ⟨fun hshort => hsplit .shortField 0 (if_pos hshort), fun hhdr => ?_⟩
  have hheader : ¬ buf.length < hlen := Nat.not_lt.mpr hhdr
  refine ⟨fun hsmall => hsplit .badToff 4 ?_, fun hlarge => ?_⟩
  · simp only [splitBuf, if_neg hheader, if_pos hsmall]
  have htoff : ¬ be32 buf 4 ≤ hlen := Nat.not_le.mpr hlarge
  refine ⟨fun hmax => hsplit .tooLarge 4 ?_, fun hfits => ?_⟩
  · simp only [splitBuf, if_neg hheader, if_neg htoff, if_pos hmax]
  have hbody : ¬ c.bodyMax < be32 buf 4 - hlen := Nat.not_lt.mpr hfits
  refine ⟨fun hshort => hsplit .shortField hlen ?_, fun htr1 => ?_⟩
  · simp only [splitBuf, if_neg hheader, if_neg htoff, if_neg hbody, if_pos hshort]
  have htrailer : ¬ buf.length < be32 buf 4 + 8 := Nat.not_lt.mpr htr1
  refine ⟨fun hmax => hsplit .tooLarge _ ?_, fun hauth hshort => hsplit .shortAuth _ ?_⟩
  · simp only [splitBuf, if_neg hheader, if_neg htoff, if_neg hbody, if_neg htrailer, if_pos hmax]
  · simp only [splitBuf, if_neg hheader, if_neg htoff, if_neg hbody, if_neg htrailer, if_neg (Nat.not_lt.mpr hauth),
      if_pos hshort]

end Sys2Proof.Proofs

/-! SUPPORT. Every body the encoder writes decodes to its own record, using all of it (R177, R181; the layouts are PRESUMED,
log 14, 16). -/

namespace Sys2Proof.Machine

open Sys2Proof.Claims

section PlainBodies

variable {b out : Bytes} {o e : Nat}

/-! ## Connection frames -/

theorem connReqDec_of_connReqEnc {r : ConnectionRequest} (h : connReqEnc r = .ok out) : connReqDec out = .ok r out.length := by
  rw [connReqDec]
  refine (Stands.of_putAll h).andThen (putU16_readsBack _) fun o h => ?_
  refine h.andThen (putU16_readsBack _) fun o h => ?_
  refine h.andThen (putStr_readsBack _ _) fun o h => ?_
  refine h.andThen (putStr_readsBack _ _) fun o h => ?_
  refine h.andThen (putStr_readsBack _ _) fun o h => ?_
  refine h.andThen (putU32_readsBack _) fun o h => ?_
  refine h.andThen (putU16_readsBack _) fun o h => ?_
  refine h.andThen (putU32_readsBack _) fun o h => ?_
  refine h.andThen (putU16_readsBack _) fun o h => ?_
  rw [h.eq_of_nil]

theorem connRspDec_of_connRspEnc {r : ConnectionResponse} (h : connRspEnc r = .ok out) :
    connRspDec out = .ok r out.length := by
  rw [connRspDec]
  refine (Stands.of_putAll h).andThen (putU16_readsBack _) fun o h => ?_
  refine h.andThen (putU16_readsBack _) fun o h => ?_
  refine h.andThen (putStr_readsBack _ _) fun o h => ?_
  refine h.andThen (putStr_readsBack _ _) fun o h => ?_
  refine h.andThen (putStr_readsBack _ _) fun o h => ?_
  refine h.andThen (putU32_readsBack _) fun o h => ?_
  refine h.andThen (putU16_readsBack _) fun o h => ?_
  refine h.andThen (putU32_readsBack _) fun o h => ?_
  refine h.andThen (putU16_readsBack _) fun o h => ?_
  rw [h.eq_of_nil]

/-! ## Option frames -/

theorem optionDec_of_stands {x : OptionRecord} (h : Stands b o e [putU32 x.optionType, putVar x.value]) :
    optionDec b o = .ok x e := by
  rw [optionDec]
  refine h.andThen (putU32_readsBack _) fun o h => ?_
  refine h.andThen (putVar_readsBack _) fun o h => ?_
  rw [h.eq_of_nil]

theorem optionsDec_of_stands {xs : List OptionRecord} (h : Stands b o e (optionsEnc xs)) :
    optionsDec b xs.length o = .ok xs e := by
  induction xs generalizing o with
  | nil => rw [h.eq_of_nil]; rfl
  | cons x xs ih =>
    obtain ⟨m, hx, hxs⟩ := Stands.split (ps := [putU32 x.optionType, putVar x.value]) h
    simp only [List.length_cons, optionsDec, optionDec_of_stands hx, Res.andThen, ih hxs]

theorem optionListDec_of_optionListEnc {xs : List OptionRecord} (h : optionListEnc xs = .ok out) :
    optionListDec out = .ok xs out.length :=
  (Stands.of_putAll h).andThen (putU32_readsBack _) fun _ => optionsDec_of_stands

theorem optReqDec_of_optReqEnc {r : OptionRequest} (h : optReqEnc r = .ok out) : optReqDec out = .ok r out.length := by
  rw [optReqDec, optionListDec_of_optionListEnc h]
  rfl

theorem optRspDec_of_optRspEnc {r : OptionResponse} (h : optRspEnc r = .ok out) : optRspDec out = .ok r out.length := by
  rw [optRspDec, optionListDec_of_optionListEnc h]
  rfl

/-! ## Acknack -/

theorem gapsDec_of_stands {gs : List (Int × Int)} (h : Stands b o e (gapsEnc gs)) : gapsDec b gs.length o = .ok gs e := by
  induction gs generalizing o with
  | nil => rw [h.eq_of_nil]; rfl
  | cons g gs ih =>
    rw [List.length_cons, gapsDec]
    refine h.andThen (putI64_readsBack _) fun o h => ?_
    refine h.andThen (putI64_readsBack _) fun o h => ?_
    rw [ih h]
    rfl

theorem acknackDec_of_acknackEnc {r : Acknack} (h : acknackEnc r = .ok out) : acknackDec out = .ok r out.length := by
  rw [acknackDec]
  refine (Stands.of_putAll h).andThen (putStr_readsBack _ _) fun o h => ?_
  refine h.andThen (putI64_readsBack _) fun o h => ?_
  refine h.andThen (putI64_readsBack _) fun o h => ?_
  refine h.andThen (putU32_readsBack _) fun o h => ?_
  rw [gapsDec_of_stands h]
  rfl

/-! ## Alert, command and CustomReset frames -/

theorem alertDec_of_alertEnc {r : Alert} (h : alertEnc r = .ok out) : alertDec out = .ok r out.length := by
  have hvar := putVar_readsBack r.message out [] [] h
  rw [List.nil_append, List.append_nil, List.length_nil, Nat.zero_add] at hvar
  rw [alertDec, hvar]
  rfl

theorem cmdReqDec_of_cmdReqEnc {r : CommandRequest} (h : cmdReqEnc r = .ok out) : cmdReqDec out = .ok r out.length := by
  rw [cmdReqDec]
  refine (Stands.of_putAll h).andThen (putStr_readsBack _ _) fun o h => ?_
  refine h.andThen (putStr_readsBack _ _) fun o h => ?_
  refine h.andThen (putStr_readsBack _ _) fun o h => ?_
  refine h.andThen (putStr_readsBack _ _) fun o h => ?_
  refine h.andThen (putTs_readsBack _) fun o h => ?_
  refine h.andThen (putVar_readsBack _) fun o h => ?_
  rw [h.eq_of_nil]

theorem cmdRspDec_of_cmdRspEnc {r : CommandResponse} (h : cmdRspEnc r = .ok out) : cmdRspDec out = .ok r out.length := by
  rw [cmdRspDec]
  refine (Stands.of_putAll h).andThen (putStr_readsBack _ _) fun o h => ?_
  refine h.andThen (putStr_readsBack _ _) fun o h => ?_
  refine h.andThen (putStr_readsBack _ _) fun o h => ?_
  refine h.andThen (putStr_readsBack _ _) fun o h => ?_
  refine h.andThen (putTs_readsBack _) fun o h => ?_
  refine h.andThen (putVar_readsBack _) fun o h => ?_
  refine h.andThen (putVar_readsBack _) fun o h => ?_
  rw [h.eq_of_nil]

/-- The whole body is the blob (R205). -/
theorem customResetDec_eq (b : Bytes) : customResetDec b = .ok { blob := b } b.length := by
  have hblob : getBytes b 0 b.length = .ok b b.length :=
    (getBytes_ok_iff ..).mpr ⟨by omega, (slice_zero_eq_self rfl).symm, by omega⟩
  rw [customResetDec, hblob]
  rfl

theorem customResetDec_of_customResetEnc {r : CustomReset} (h : customResetEnc r = .ok out) :
    customResetDec out = .ok r out.length := by
  cases h
  exact customResetDec_eq r.blob

end PlainBodies

/-! ## The dispatch -/

theorem asBody_of_ok {α : Type} {mk : α → Variant} {r : Res α} {x : α} {o : Nat} (h : r = .ok x o) :
    asBody mk r = .ok { v := mk x, skips := [], warn := 0 } o := by
  rw [h]
  rfl

/-- The body decoder of a record's own type undoes its encoder (R177, R181). -/
theorem bodyDec_of_bodyEnc {c : Cfg} {v : Variant} {out : Bytes} (realign : Bool) (h : bodyEnc c v = .ok out)
    (hcanon : CanonicalVariant v) :
    bodyDec c realign (Variant.frameType v) out = .ok { v := v, skips := [], warn := 0 } out.length := by
  cases v with
  | connectionRequest r => exact asBody_of_ok (connReqDec_of_connReqEnc h)
  | connectionResponse r => exact asBody_of_ok (connRspDec_of_connRspEnc h)
  | optionRequest r => exact asBody_of_ok (optReqDec_of_optReqEnc h)
  | optionResponse r => exact asBody_of_ok (optRspDec_of_optRspEnc h)
  | data d => exact dataDec_of_dataEnc realign h hcanon
  | acknack r => exact asBody_of_ok (acknackDec_of_acknackEnc h)
  | alert r => exact asBody_of_ok (alertDec_of_alertEnc h)
  | commandRequest r => exact asBody_of_ok (cmdReqDec_of_cmdReqEnc h)
  | commandResponse r => exact asBody_of_ok (cmdRspDec_of_cmdRspEnc h)
  | customReset r => exact asBody_of_ok (customResetDec_of_customResetEnc h)

end Sys2Proof.Machine

/-! SUPPORT. The frame a request encodes to, as operands: what `ENCODE` offers are the bytes of its regions, and what
`DECODEBUF` reads off them are its operands (R162, R167, R171, R179, R181). -/

namespace Sys2Proof.Machine

open Sys2Proof.Claims

/-! ## What a successful `ENCODE` has checked -/

theorem hdrEnc_ok {ty toff sq se : Nat} {cr de out : Bytes} (h : hdrEnc ty toff cr de sq se = .ok out) :
    FitsField 8 cr ∧ FitsField 8 de ∧ sq < 2 ^ 64 ∧ se < 2 ^ 32
      ∧ out = toBe 4 ty ++ toBe 4 toff ++ padTo 8 cr ++ padTo 8 de ++ toBe 8 sq ++ toBe 4 se := by
  simp only [hdrEnc, putU32, putU64, putAll_cons_ok_iff, putAll_nil, putUInt_ok_iff, putStr_ok_iff, Except.ok.injEq] at h
  obtain ⟨_, _, ⟨-, rfl⟩, ⟨_, _, ⟨-, rfl⟩, ⟨_, _, ⟨hcrlen, hcr, rfl⟩, ⟨_, _, ⟨hdelen, hde, rfl⟩, ⟨_, _, ⟨hsq, rfl⟩,
    ⟨_, _, ⟨hse, rfl⟩, rfl, rfl⟩, rfl⟩, rfl⟩, rfl⟩, rfl⟩, rfl⟩ := h
  exact ⟨⟨hcrlen, hcr⟩, ⟨hdelen, hde⟩, hsq, hse, by simp⟩

theorem trlBody_ok {kid : Nat} {av out : Bytes} (h : trlBody kid av = .ok out) :
    kid < 2 ^ 32 ∧ av.length < 2 ^ 32 ∧ out = toBe 4 kid ++ toBe 4 av.length ++ (av ++ zeros (padlen av.length)) := by
  simp only [trlBody, putU32, putBytes, putAll_cons_ok_iff, putAll_nil, putUInt_ok_iff, Except.ok.injEq] at h
  obtain ⟨_, _, ⟨hkid, rfl⟩, ⟨_, _, ⟨hav, rfl⟩, ⟨_, _, rfl, rfl, rfl⟩, rfl⟩, rfl⟩ := h
  exact ⟨hkid, hav, by simp⟩

/-- Where the last 8 bytes stand is what the checksum leaves out (R170). -/
theorem ckin_append_checksum (pre : Bytes) (x : Nat) : ckin (pre ++ toBe 8 x) = pre ++ zeros ckLen := by
  rw [ckin_append pre _ (toBe_length 8 x).ge, toBe_length]
  simp

/-- What `ENCODE` offers is a frame that it accepted (R180). -/
theorem encodeFrame_of_offered {req : EncReq} {s t : State} {out : Bytes} (hphase : s.phase.waiting = false)
    (h : exec (.encode req) s = .next t) (htx : t.txValid = true) (hload : Memory.load t.txBuf 0 t.txLen = some out) :
    encodeFrame Config.cfg req = .ok out := by
  rw [exec_encode_of_not_waiting req hphase] at h
  cases h
  obtain ⟨e, -, he⟩ | ⟨out', hok, he⟩ := encodeReq_cases Config.cfg req s <;> rw [he] at htx hload
  · cases htx
  · obtain rfl : out' = out := Option.some.inj ((Memory.load_ofBytes out').symm.trans hload)
    exact hok

/-! ## The operands -/

/-- The operands of the frame of a request with the given body and checksum (R162, R167, R180). -/
def requestFrame (req : EncReq) (body : Bytes) (checksum : BitVec 64) : Frame :=
  { trailerOffset := BitVec.ofNat 32 (hlen + body.length), creator := req.frameCreator
    destination := req.frameDestination, sequence := BitVec.ofNat 64 req.sequenceNumber
    series := BitVec.ofNat 32 req.series, body := body, authKeyId := BitVec.ofNat 32 req.authKeyId
    authSize := BitVec.ofNat 32 req.authValue.length
    authValue := req.authValue ++ zeros (padlen req.authValue.length), checksum := checksum }

/-- The request's integers and strings are ones the frame can carry, and its body has at least one byte (R84, R117, R127). -/
structure RequestFits (req : EncReq) (body : Bytes) : Prop where
  body_pos : 0 < body.length
  body_lt : hlen + body.length < 2 ^ 32
  creator : FitsField 8 req.frameCreator
  destination : FitsField 8 req.frameDestination
  sequence_lt : req.sequenceNumber < 2 ^ 64
  series_lt : req.series < 2 ^ 32
  keyid_lt : req.authKeyId < 2 ^ 32
  auth_lt : req.authValue.length < 2 ^ 32

/-- A string that fits its field and is ASCII is held as it is (R26, R127). -/
theorem nameOk_of_fitsField {x : Bytes} (h : FitsField 8 x) : nameOk x = true := by
  obtain ⟨hlength, hascii⟩ := h
  refine (nameOk_iff x).mpr ⟨hlength, fun hlast => ?_⟩
  obtain ⟨hpos, -⟩ := hascii 0 (List.mem_of_getLast? hlast)
  exact absurd hpos (by decide)

theorem toNat_ofNat_of_lt {w n : Nat} (h : n < 2 ^ w) : (BitVec.ofNat w n).toNat = n := by
  rw [BitVec.toNat_ofNat, Nat.mod_eq_of_lt h]

section Request

variable {req : EncReq} {body : Bytes} (checksum : BitVec 64) (h : RequestFits req body)
include h

theorem requestFrame_wellFormed : (requestFrame req body checksum).wellFormed = true := by
  refine (Frame.wellFormed_iff _).mpr ⟨?_, ?_, nameOk_of_fitsField h.creator, nameOk_of_fitsField h.destination, ?_⟩
  · exact beq_iff_eq.mpr (toNat_ofNat_of_lt h.body_lt)
  · simpa [Frame.bodyOk, requestFrame] using List.ne_nil_of_length_pos h.body_pos
  · have hsize : (requestFrame req body checksum).authSize.toNat = req.authValue.length := toNat_ofNat_of_lt h.auth_lt
    rw [Frame.authOk, hsize]
    simp [requestFrame]

/-- The bytes of the request's frame, its fields written one after the other (R162, R167). -/
theorem requestFrame_bytes (ty : FrameType) : ((requestFrame req body checksum).regions ty).bytes
    = toBe 4 ty.code ++ toBe 4 (hlen + body.length) ++ padTo 8 req.frameCreator ++ padTo 8 req.frameDestination
      ++ toBe 8 req.sequenceNumber ++ toBe 4 req.series ++ body
      ++ (toBe 4 req.authKeyId ++ toBe 4 req.authValue.length ++ (req.authValue ++ zeros (padlen req.authValue.length)))
      ++ toBe 8 checksum.toNat := by
  simp only [Regions.bytes, Frame.regions, requestFrame, toNat_ofNat_of_lt h.body_lt, toNat_ofNat_of_lt h.sequence_lt,
    toNat_ofNat_of_lt h.series_lt, toNat_ofNat_of_lt h.keyid_lt, toNat_ofNat_of_lt h.auth_lt, List.append_assoc]

end Request

/-- What an accepted request encodes to: the bytes of its frame with the checksum of these bytes (R171, R180). -/
theorem encodeFrame_eq_bytes {c : Cfg} {req : EncReq} {v : Variant} {body out : Bytes} (hok : encodeFrame c req = .ok out)
    (hv : resolveVariant c req = .ok v) (hb : bodyEnc c v = .ok body) :
    req.frameType = (Variant.frameType v).code ∧ RequestFits req body
      ∧ out = ((requestFrame req body (c.crc64 (ckin out))).regions (Variant.frameType v)).bytes := by
  obtain ⟨v', body', hdr, trl, hv', hty, hb', hne, hlt, hhdr, htrl, hout, -⟩ := (encodeFrame_ok_iff ..).mp hok
  obtain rfl : v = v' := Except.ok.inj (hv.symm.trans hv')
  obtain rfl : body = body' := Except.ok.inj (hb.symm.trans hb')
  obtain ⟨hcr, hde, hsq, hse, rfl⟩ := hdrEnc_ok hhdr
  obtain ⟨hkid, hav, rfl⟩ := trlBody_ok htrl
  have hfits : RequestFits req body := ⟨Nat.pos_of_ne_zero hne, hlt, hcr, hde, hsq, hse, hkid, hav⟩
  refine ⟨hty, hfits, ?_⟩
  rw [requestFrame_bytes _ hfits, ← hty]
  rw [hout, ckin_append_checksum]
  rfl

/-! ## `DECODEBUF` of a frame's bytes -/

theorem be32_hdr_code (t : FrameType) (f : Frame) : be32 (f.regions t).hdr 0 = t.code := by
  rw [Laws.OpcodeField.header_word t f, Nat.mod_eq_of_lt t.code_lt]

/-- A well-formed frame that fits the buffers has complete regions (R51, R150). -/
theorem completeFrame_of_wellFormed {c : Cfg} (t : FrameType) {f : Frame} (hwf : f.wellFormed = true)
    (hbody : f.body.length ≤ c.bodyMax) (hauth : f.authValue.length ≤ c.authMax) : CompleteFrame c (f.regions t) := by
  obtain ⟨-, hpos, -, -, hpad⟩ := f.wellFormed_iff.mp hwf
  obtain ⟨hhdr, htoff, htr1, htr2⟩ := Frame.regions_lengths t hwf
  have hlength : f.authValue.length = pad4 f.authSize.toNat := by simpa [Frame.authOk] using hpad
  exact { hdr_length := hhdr
          body_pos := List.length_pos_iff.mpr (by simpa [Frame.bodyOk, Frame.regions] using hpos)
          toff_eq := htoff
          body_fits := hbody
          tr1_length := htr1
          tr2_length := htr2
          auth_fits := by rwa [f.be32_tr1_authSize t, ← hlength] }

/-- The registers that the bytes of a frame give are its operands, also where `DECODEBUF` has just stored it (R161, R166). -/
theorem withBodyAndTrailer_eq_delivered {r : Regions} {t : FrameType} (b : Body) (k : Nat) (s : State)
    (hty : be32 r.hdr 0 = t.code) :
    withBodyAndTrailer r b k (withHeader r.hdr (setRegions r (beginDecodebuf s)))
      = delivered t (frameOf r) b k (setRegions r s) := by
  rw [delivered, ← hty]
  rfl

/-- `DECODEBUF` of the bytes of a well-formed frame that fits and whose body decodes delivers its operands (R179). -/
theorem decodeBuf_eq_delivered {c : Cfg} (t : FrameType) {f : Frame} {b : Body} {k : Nat} (rest : Bytes) {s : State}
    (hwf : f.wellFormed = true) (hbody : f.body.length ≤ c.bodyMax) (hauth : f.authValue.length ≤ c.authMax)
    (hb : bodyDec c s.realign t f.body = .ok b k) :
    decodeBuf c ((f.regions t).bytes ++ rest) s
      = checkCrc c (f.regions t).bytes (delivered t f b k (setRegions (f.regions t) s)) := by
  obtain ⟨-, -, hcreator, hdest, hpad⟩ := f.wellFormed_iff.mp hwf
  have hframe : frameOf (f.regions t) = f := frameOf_regions t hcreator hdest (by simpa [Frame.authOk] using hpad)
  have hcode := be32_hdr_code t f
  rw [decodeBuf_bytes_append rest (completeFrame_of_wellFormed t hwf hbody hauth) hcode hb]
  rw [withBodyAndTrailer_eq_delivered b k s hcode, hframe]

end Sys2Proof.Machine

namespace Sys2Proof.Proofs

open Sys2Proof.Machine Sys2Proof.Claims

/-- Settles O37: what `ENCODE` offers are the bytes of the request's frame, which is complete and whose body decodes to the
request's record; the checksum compared is the one that was stored. -/
theorem encodeThenDecodebuf : Obligations.EncodeThenDecodebuf := by
  intro req s t u v body out rest hphase hencode htx hload hv hcanon hb hbody hauth hphase'
  have hok := encodeFrame_of_offered hphase hencode htx hload
  obtain ⟨hty, hfits, hout⟩ := encodeFrame_eq_bytes hok hv hb
  have hwf := requestFrame_wellFormed (Config.cfg.crc64 (ckin out)) hfits
  have hdecode := decodeBuf_eq_delivered (Variant.frameType v) rest (s := u) hwf hbody (by simpa [requestFrame] using hauth)
    (bodyDec_of_bodyEnc u.realign hb hcanon)
  rw [← hout] at hdecode
  have htype : (BitVec.ofNat 32 (Variant.frameType v).code).toNat = req.frameType :=
    (toNat_ofNat_of_lt (FrameType.code_lt _)).trans hty.symm
  exact ⟨_, (exec_decodebuf_of_not_waiting _ hphase').trans (congrArg _ hdecode), htype, toNat_ofNat_of_lt hfits.body_lt, rfl,
    rfl, toNat_ofNat_of_lt hfits.sequence_lt, toNat_ofNat_of_lt hfits.series_lt, rfl, toNat_ofNat_of_lt hfits.keyid_lt,
    toNat_ofNat_of_lt hfits.auth_lt, rfl, BitVec.zero_or.trans (if_pos rfl), rfl, rfl, rfl, beq_iff_eq.mpr rfl, rfl⟩

end Sys2Proof.Proofs

/-! SUPPORT. Decoders that stay within the body: each goes on and fails at a cursor within it (R60, R110). -/

namespace Sys2Proof

/-- A decoder that passes stops within `b`, and one that fails does so at a place within `b`. -/
def Res.Within {α : Type} (r : Res α) (b : Bytes) : Prop := r.Meets (fun _ o => o ≤ b.length) fun _ p => p ≤ b.length

section Within

variable {α β : Type} {b : Bytes} {o : Nat}

theorem Res.within_ok (v : α) (h : o ≤ b.length) : (Res.ok v o).Within b := Res.meets_ok h

theorem Res.within_fail (sub : MalformedSub) (h : o ≤ b.length) : (Res.fail sub o : Res α).Within b := Res.meets_fail h

theorem Res.Within.andThen {r : Res α} {k : α → Nat → Res β} (h : r.Within b)
    (hk : ∀ v o, o ≤ b.length → (k v o).Within b) : (r.andThen k).Within b := by
  obtain ⟨hok, hfail⟩ := h
  exact Res.Meets.andThen ⟨fun v o hr => hk v o (hok v o hr), hfail⟩

theorem Res.Within.fail_le {r : Res α} {sub : MalformedSub} {p : Nat} (h : r.Within b) (hr : r = .fail sub p) :
    p ≤ b.length := by
  obtain ⟨-, hfail⟩ := h
  exact hfail sub p hr

theorem need_within (n : Nat) (v : α) (h : o ≤ b.length) : (need b o n (.ok v (o + n))).Within b :=
  need_meets (fun hfits => hfits) fun _ => h

theorem getUInt_within (n : Nat) (h : o ≤ b.length) : (getUInt n b o).Within b := need_within n _ h

theorem getU16_within (h : o ≤ b.length) : (getU16 b o).Within b := getUInt_within 2 h

theorem getU32_within (h : o ≤ b.length) : (getU32 b o).Within b := getUInt_within 4 h

theorem getI64_within (h : o ≤ b.length) : (getI64 b o).Within b := (getUInt_within 8 h).andThen fun _ _ => Res.within_ok _

theorem getBytes_within (n : Nat) (h : o ≤ b.length) : (getBytes b o n).Within b := need_within n _ h

theorem getTs_within (h : o ≤ b.length) : (getTs b o).Within b := getBytes_within tsLen h

theorem skip_within (n : Nat) (h : o ≤ b.length) : (skip b o n).Within b := need_within n _ h

theorem getStr_within (w : Nat) (h : o ≤ b.length) : (getStr w b o).Within b := need_within w _ h

theorem getVar_within (h : o ≤ b.length) : (getVar b o).Within b :=
  (getU32_within h).andThen fun _ _ => need_within _ _

end Within

namespace Machine

variable (b : Bytes)

theorem connReqDec_within : (connReqDec b).Within b :=
  (getU16_within (Nat.zero_le _)).andThen fun _ _ h => (getU16_within h).andThen fun _ _ h =>
  (getStr_within 8 h).andThen fun _ _ h => (getStr_within 4 h).andThen fun _ _ h =>
  (getStr_within 4 h).andThen fun _ _ h => (getU32_within h).andThen fun _ _ h =>
  (getU16_within h).andThen fun _ _ h => (getU32_within h).andThen fun _ _ h =>
  (getU16_within h).andThen fun _ _ => Res.within_ok _

theorem connRspDec_within : (connRspDec b).Within b :=
  (getU16_within (Nat.zero_le _)).andThen fun _ _ h => (getU16_within h).andThen fun _ _ h =>
  (getStr_within 8 h).andThen fun _ _ h => (getStr_within 4 h).andThen fun _ _ h =>
  (getStr_within 4 h).andThen fun _ _ h => (getU32_within h).andThen fun _ _ h =>
  (getU16_within h).andThen fun _ _ h => (getU32_within h).andThen fun _ _ h =>
  (getU16_within h).andThen fun _ _ => Res.within_ok _

theorem optionsDec_within (n : Nat) {o : Nat} (h : o ≤ b.length) : (optionsDec b n o).Within b := by
  induction n generalizing o with
  | zero => exact Res.within_ok _ h
  | succ n ih =>
    have hrecord : (optionDec b o).Within b :=
      (getU32_within h).andThen fun _ _ h => (getVar_within h).andThen fun _ _ => Res.within_ok _
    exact hrecord.andThen fun _ _ h => (ih h).andThen fun _ _ => Res.within_ok _

theorem optionListDec_within : (optionListDec b).Within b :=
  (getU32_within (Nat.zero_le _)).andThen fun n _ => optionsDec_within b n

theorem gapsDec_within (n : Nat) {o : Nat} (h : o ≤ b.length) : (gapsDec b n o).Within b := by
  induction n generalizing o with
  | zero => exact Res.within_ok _ h
  | succ n ih =>
    exact (getI64_within h).andThen fun _ _ h => (getI64_within h).andThen fun _ _ h =>
      (ih h).andThen fun _ _ => Res.within_ok _

theorem acknackDec_within : (acknackDec b).Within b :=
  (getStr_within 20 (Nat.zero_le _)).andThen fun _ _ h => (getI64_within h).andThen fun _ _ h =>
  (getI64_within h).andThen fun _ _ h => (getU32_within h).andThen fun n _ h =>
  (gapsDec_within b n h).andThen fun _ _ => Res.within_ok _

theorem alertDec_within : (alertDec b).Within b :=
  (getVar_within (Nat.zero_le _)).andThen fun _ _ => Res.within_ok _

theorem cmdReqDec_within : (cmdReqDec b).Within b :=
  (getStr_within 8 (Nat.zero_le _)).andThen fun _ _ h => (getStr_within 5 h).andThen fun _ _ h =>
  (getStr_within 3 h).andThen fun _ _ h => (getStr_within 2 h).andThen fun _ _ h =>
  (getTs_within h).andThen fun _ _ h => (getVar_within h).andThen fun _ _ => Res.within_ok _

theorem cmdRspDec_within : (cmdRspDec b).Within b :=
  (getStr_within 8 (Nat.zero_le _)).andThen fun _ _ h => (getStr_within 5 h).andThen fun _ _ h =>
  (getStr_within 3 h).andThen fun _ _ h => (getStr_within 2 h).andThen fun _ _ h =>
  (getTs_within h).andThen fun _ _ h => (getVar_within h).andThen fun _ _ h =>
  (getVar_within h).andThen fun _ _ => Res.within_ok _

/-- The cursor passes the four null bytes only where they are in the body (R234). -/
theorem realignAt_le (on : Bool) {o : Nat} (h : o ≤ b.length) : (realignAt on b o).1 ≤ b.length := by
  unfold realignAt
  split_ifs with hfires
  · by_contra hbeyond
    have hpeek : peek4 b o = none := if_neg hbeyond
    simp [hpeek] at hfires
  · exact h

theorem cshDec_within (realign : Bool) : (cshDec realign b).Within b := by
  refine (getU32_within (Nat.zero_le _)).andThen fun nc _ h => (getU32_within h).andThen fun _ _ h =>
    (getTs_within h).andThen fun _ o h => (getU32_within h).andThen fun cnt _ h' => ?_
  split_ifs
  · exact Res.within_fail _ h
  · exact (getBytes_within cnt h').andThen fun _ _ h => (skip_within _ h).andThen fun _ _ h =>
      Res.within_ok _ (realignAt_le b realign h)

theorem asBody_fail_iff {α : Type} (mk : α → Variant) (r : Res α) (sub : MalformedSub) (p : Nat) :
    asBody mk r = .fail sub p ↔ r = .fail sub p := by
  simp [asBody, Res.andThen_fail_iff]

/-- A body decoder fails at a place within the body (R110, R265). -/
theorem bodyDec_fail_le {c : Cfg} {realign : Bool} {ty : FrameType} {b : Bytes} {sub : MalformedSub} {p : Nat}
    (h : bodyDec c realign ty b = .fail sub p) : p ≤ b.length := by
  cases ty with
  | connectionRequest => exact (connReqDec_within b).fail_le ((asBody_fail_iff ..).mp h)
  | connectionResponse => exact (connRspDec_within b).fail_le ((asBody_fail_iff ..).mp h)
  | optionRequest =>
    exact ((optionListDec_within b).andThen fun _ _ => Res.within_ok _).fail_le ((asBody_fail_iff ..).mp h)
  | optionResponse =>
    exact ((optionListDec_within b).andThen fun _ _ => Res.within_ok _).fail_le ((asBody_fail_iff ..).mp h)
  | data =>
    obtain h | ⟨_, _, -, h⟩ := (Res.andThen_fail_iff ..).mp h
    · exact (cshDec_within b realign).fail_le h
    · cases h
  | acknack => exact (acknackDec_within b).fail_le ((asBody_fail_iff ..).mp h)
  | alert => exact (alertDec_within b).fail_le ((asBody_fail_iff ..).mp h)
  | commandRequest => exact (cmdReqDec_within b).fail_le ((asBody_fail_iff ..).mp h)
  | commandResponse => exact (cmdRspDec_within b).fail_le ((asBody_fail_iff ..).mp h)
  | cd1Encapsulation => cases h; exact Nat.zero_le _
  | customReset =>
    rw [bodyDec, customResetDec_eq] at h
    cases h

end Machine

end Sys2Proof

/-! SUPPORT. A frame instruction whose body decodes, and one whose body fails (R161, R166, R178, R209, R270). -/

namespace Sys2Proof.Machine

open Sys2Proof.Claims

theorem exec_frame_of_body_ok {t : FrameType} {f : Frame} {s : State} {b : Body} {k : Nat} (hwf : f.wellFormed = true)
    (hb : bodyDec Config.cfg s.realign t f.body = .ok b k) : exec (t.instr f) s = .next (delivered t f b k s) := by
  rw [exec_frame, hb, runFrame_eq_delivered Config.cfg t b k s hwf]

/-- A frame has fewer than 2^32 bytes up to its trailer, so `EPOS` holds every place in its body (R32, R84). -/
theorem hlen_add_body_lt {f : Frame} (hwf : f.wellFormed = true) : hlen + f.body.length < 2 ^ 32 := by
  obtain ⟨hoffset, -⟩ := f.wellFormed_iff.mp hwf
  have htoff : f.trailerOffset.toNat = hlen + f.body.length := by simpa [Frame.offsetOk] using hoffset
  rw [← htoff]
  exact f.trailerOffset.isLt

theorem exec_frame_of_body_fail {t : FrameType} {f : Frame} {s : State} {sub : MalformedSub} {p : Nat}
    (hwf : f.wellFormed = true) (hb : bodyDec Config.cfg s.realign t f.body = .fail sub p) :
    hlen + p < 2 ^ 32 ∧ exec (t.instr f) s = .next (rejectedBody t f sub p s) := by
  have hp : hlen + p < 2 ^ 32 :=
    Nat.lt_of_le_of_lt (Nat.add_le_add_left (bodyDec_fail_le hb) hlen) (hlen_add_body_lt hwf)
  have hepos : eposOf Config.cfg (hlen + p) = BitVec.ofNat 32 (hlen + p) := if_pos hp
  refine ⟨hp, ?_⟩
  rw [exec_frame, hb, rejectedBody, ← hepos]
  simp only [runFrame, runDecode, frameHeader_of_wellFormed t hwf]
  rfl

end Sys2Proof.Machine

namespace Sys2Proof.Proofs

open Sys2Proof.Machine Sys2Proof.Claims

/-- Settles O18: each is a frame whose body decodes, a CustomReset always. -/
theorem controlFramesAreDelivered : Obligations.ControlFramesAreDelivered := by
  intro f s hwf
  exact ⟨fun r k h => exec_frame_of_body_ok (t := .connectionRequest) hwf (asBody_of_ok h),
    fun r k h => exec_frame_of_body_ok (t := .connectionResponse) hwf (asBody_of_ok h),
    fun r k h => exec_frame_of_body_ok (t := .optionRequest) hwf (asBody_of_ok h),
    fun r k h => exec_frame_of_body_ok (t := .optionResponse) hwf (asBody_of_ok h),
    fun r k h => exec_frame_of_body_ok (t := .alert) hwf (asBody_of_ok h),
    fun r k h => exec_frame_of_body_ok (t := .commandRequest) hwf (asBody_of_ok h),
    fun r k h => exec_frame_of_body_ok (t := .commandResponse) hwf (asBody_of_ok h),
    exec_frame_of_body_ok (t := .customReset) hwf (asBody_of_ok (customResetDec_eq f.body))⟩

/-- Settles O22: each decoder fails within its body, whose places `EPOS` holds. -/
theorem malformedBodiesAreRejected : Obligations.MalformedBodiesAreRejected := by
  intro f s sub p hwf
  exact ⟨fun h => exec_frame_of_body_fail (t := .connectionRequest) hwf ((asBody_fail_iff ..).mpr h),
    fun h => exec_frame_of_body_fail (t := .connectionResponse) hwf ((asBody_fail_iff ..).mpr h),
    fun h => exec_frame_of_body_fail (t := .optionRequest) hwf ((asBody_fail_iff ..).mpr h),
    fun h => exec_frame_of_body_fail (t := .optionResponse) hwf ((asBody_fail_iff ..).mpr h),
    fun h => exec_frame_of_body_fail (t := .acknack) hwf ((asBody_fail_iff ..).mpr h),
    fun h => exec_frame_of_body_fail (t := .alert) hwf ((asBody_fail_iff ..).mpr h),
    fun h => exec_frame_of_body_fail (t := .commandRequest) hwf ((asBody_fail_iff ..).mpr h),
    fun h => exec_frame_of_body_fail (t := .commandResponse) hwf ((asBody_fail_iff ..).mpr h),
    fun h => exec_frame_of_body_fail (t := .data) hwf h⟩

end Sys2Proof.Proofs

/-! SUPPORT. An Acknack body that holds its gaps, field by field (R220, R221; the width of the count is PRESUMED, log 16). -/

namespace Sys2Proof

theorem getU32_of_fits {b : Bytes} {o : Nat} (h : o + 4 ≤ b.length) : getU32 b o = .ok (be32 b o) (o + 4) :=
  need_of_le b o 4 _ h

theorem getI64_of_fits {b : Bytes} {o : Nat} (h : o + 8 ≤ b.length) : getI64 b o = .ok (sext64 (be64 b o)) (o + 8) := by
  have hword : getU64 b o = .ok (be64 b o) (o + 8) := need_of_le b o 8 _ h
  rw [getI64, hword]
  rfl

theorem getStr_of_fits {b : Bytes} {o w : Nat} (h : o + w ≤ b.length) :
    getStr w b o = .ok (rstrip (slice b o w)) (o + w) := need_of_le b o w _ h

theorem getBytes_of_fits {b : Bytes} {o n : Nat} (h : o + n ≤ b.length) : getBytes b o n = .ok (slice b o n) (o + n) :=
  need_of_le b o n _ h

namespace Machine

/-- The gap number `i` of a gap list at `o`: its start and its end, 8 bytes each (R220). -/
def gapAt (b : Bytes) (o i : Nat) : Int × Int := (sext64 (be64 b (o + 16 * i)), sext64 (be64 b (o + 8 + 16 * i)))

theorem gapsDec_of_fits {b : Bytes} (n : Nat) {o : Nat} (h : o + 16 * n ≤ b.length) :
    gapsDec b n o = .ok ((List.range n).map (gapAt b o)) (o + 16 * n) := by
  induction n generalizing o with
  | zero => rfl
  | succ n ih =>
    have hshift : gapAt b (o + 8 + 8) = fun i => gapAt b o (i + 1) := by
      funext i
      simp only [gapAt, show o + 8 + 8 + 16 * i = o + 16 * (i + 1) by omega,
        show o + 8 + 8 + 8 + 16 * i = o + 8 + 16 * (i + 1) by omega]
    have hrest := ih (o := o + 8 + 8) (by omega)
    rw [hshift, show o + 8 + 8 + 16 * n = o + 16 * (n + 1) by omega] at hrest
    rw [gapsDec, getI64_of_fits (by omega), Res.andThen, getI64_of_fits (by omega), Res.andThen, hrest, Res.andThen,
      List.range_succ_eq_map, List.map_cons, List.map_map]
    rfl

/-- The fields of an Acknack body at their places (R220). -/
theorem acknackDec_of_fits {b : Bytes} (h : 40 + 16 * be32 b 36 ≤ b.length) : acknackDec b = .ok
    { framesetAcked := rstrip (slice b 0 20), lowestSeqNum := sext64 (be64 b 20), highestSeqNum := sext64 (be64 b 28)
      gapRanges := (List.range (be32 b 36)).map (gapAt b 40) } (40 + 16 * be32 b 36) := by
  simp only [acknackDec, getStr_of_fits (b := b) (o := 0) (w := 20) (by omega), getI64_of_fits (b := b) (o := 20) (by omega),
    getI64_of_fits (b := b) (o := 28) (by omega), getU32_of_fits (b := b) (o := 36) (by omega), Res.andThen, Nat.reduceAdd,
    gapsDec_of_fits _ h]

end Machine

end Sys2Proof

namespace Sys2Proof.Proofs

open Sys2Proof.Machine Sys2Proof.Claims

/-- Settles O19: the decoder finds every gap, so the frame is delivered. -/
theorem acknackIsDelivered : Obligations.AcknackIsDelivered := by
  intro f s hwf hfits
  have hdec := acknackDec_of_fits hfits
  refine ⟨_, hdec, rfl, rfl, rfl, rfl, exec_frame_of_body_ok (t := .acknack) hwf (asBody_of_ok hdec)⟩

end Sys2Proof.Proofs

/-! SUPPORT. A Data body whose header decodes: its header fields, and every declared slot a subframe or a skip record (R233,
R248). -/

namespace Sys2Proof.Machine

open Sys2Proof.Claims

theorem giveUp_length (o n i : Nat) : (giveUp o n i).length = n := by
  induction n generalizing i with
  | zero => rfl
  | succ n ih => rw [giveUp, List.length_cons, ih]

/-- No slot is lost: each gives a subframe or a skip record (R248). -/
theorem slotsDec_count (c : Cfg) (b : Bytes) (n i o : Nat) :
    (slotsDec c b n i o).subframes.length + (slotsDec c b n i o).skips.length = n := by
  induction n generalizing i o with
  | zero => rfl
  | succ n ih =>
    rw [slotsDec]
    cases csfDec c b o with
    | ok f o' =>
      have hrest := ih (i + 1) o'
      simp only [List.length_cons]
      omega
    | fail sub p =>
      by_cases hnext : o + 4 ≤ b.length ∧ o + 4 + be32 b o ≤ b.length
      · have hrest := ih (i + 1) (o + 4 + be32 b o)
        simp only [hnext, and_self, if_true, List.length_cons]
        omega
      · simp only [hnext, if_false, List.length_cons, List.length_nil, giveUp_length]
        omega

/-- A header whose channel string is ten times its channel count and in the body: its fields at their places (R232, R233). -/
theorem cshDec_of_fits {b : Bytes} (realign : Bool) (hfits : 32 + pad4 (be32 b 28) ≤ b.length)
    (hcount : be32 b 28 = 10 * be32 b 0) : cshDec realign b = .ok
      ({ numChannels := be32 b 0, frameTimeLengthMs := be32 b 4, nominalTime := slice b 8 20
         channelString := slice b 32 (be32 b 28) }, (realignAt realign b (32 + pad4 (be32 b 28))).2)
      (realignAt realign b (32 + pad4 (be32 b 28))).1 := by
  have hpad := add_padlen (be32 b 28)
  have hstamp : getTs b 8 = .ok (slice b 8 20) 28 := getBytes_of_fits (n := 20) (by omega)
  have hskip : skip b (32 + be32 b 28) (padlen (be32 b 28)) = .ok () (32 + pad4 (be32 b 28)) := by
    rw [skip, need_of_le _ _ _ _ (by omega), Nat.add_assoc, hpad]
  simp only [cshDec, getU32_of_fits (b := b) (o := 0) (by omega), getU32_of_fits (b := b) (o := 4) (by omega), hstamp,
    getU32_of_fits (b := b) (o := 28) (by omega), getBytes_of_fits (b := b) (o := 32) (n := be32 b 28) (by omega), hskip,
    Res.andThen, Nat.reduceAdd, if_neg (not_not.mpr hcount)]

/-- Only the header can fail a Data body; its declared slots are then all accounted for (R248). -/
theorem dataDec_of_header {c : Cfg} {realign fired : Bool} {b : Bytes} {h : ChannelSubframeHeader} {o : Nat}
    (hheader : cshDec realign b = .ok (h, fired) o) : ∃ x k, ∃ d : DataFrame, dataDec c realign b = .ok x k
      ∧ x.v = .data d ∧ d.header = h ∧ d.subframes.length + x.skips.length = h.numChannels := by
  rw [dataDec, hheader]
  exact ⟨_, _, _, rfl, rfl, rfl, slotsDec_count c b h.numChannels 0 o⟩

end Sys2Proof.Machine

namespace Sys2Proof.Proofs

open Sys2Proof.Machine Sys2Proof.Claims

/-- Settles O20: the header decodes, so the body does, and the slots without a subframe are those logged. -/
theorem dataIsDelivered : Obligations.DataIsDelivered := by
  intro f s hwf hfits hcount
  have hheader := cshDec_of_fits s.realign hfits hcount
  obtain ⟨b, k, d, hdec, hv, hh, hslots⟩ := dataDec_of_header (c := Config.cfg) hheader
  have hnone : b.skips = [] ↔ b.skips.length = 0 := List.length_eq_zero_iff.symm
  refine ⟨b, k, d, hdec, hv, by rw [hh], by rw [hh], by rw [hh], ?_, ?_, exec_frame_of_body_ok (t := .data) hwf hdec⟩
  · rw [hh]
    omega
  · rw [hh, hnone]
    omega

end Sys2Proof.Proofs

/-! SUPPORT. The fields of connection, option, command and alert bodies at their places, and the first field that does not
fit (R191 to R203; the layouts are PRESUMED, log 14); the length of an Acknack body (R220, R223). -/

namespace Sys2Proof

theorem Res.andThen_assoc {α β γ : Type} (r : Res α) (k : α → Nat → Res β) (l : β → Nat → Res γ) :
    (r.andThen k).andThen l = r.andThen fun v o => (k v o).andThen l := by
  cases r <;> rfl

theorem getU16_meets {b : Bytes} {o : Nat} {P : Nat → Nat → Prop} {Q : MalformedSub → Nat → Prop}
    (hok : o + 2 ≤ b.length → P (beNat (slice b o 2)) (o + 2)) (hfail : b.length < o + 2 → Q .shortField o) :
    (getU16 b o).Meets P Q := need_meets hok hfail

theorem getTs_of_fits {b : Bytes} {o : Nat} (h : o + 20 ≤ b.length) : getTs b o = .ok (slice b o 20) (o + 20) :=
  getBytes_of_fits h

theorem getVar_of_fits {b : Bytes} {o : Nat} (h : o + 4 + pad4 (be32 b o) ≤ b.length) :
    getVar b o = .ok (slice b (o + 4) (be32 b o)) (o + 4 + pad4 (be32 b o)) :=
  (getVar_ok_iff ..).mpr ⟨by omega, h, rfl, rfl⟩

/-- A field of `n` bytes leaves the others standing `n` bytes further on. -/
theorem Stands.tail_of_width {b : Bytes} {o e n : Nat} {p : Put} {ps : List Put} (h : Stands b o e (p :: ps))
    (hp : ∀ a, p = .ok a → a.length = n) : Stands b (o + n) e ps := by
  obtain ⟨_, a, _, hput, -, -, hrest⟩ := h.uncons
  rwa [hp a hput] at hrest

theorem putI64_length {v : Int} {out : Bytes} (h : putI64 v = .ok out) : out.length = 8 := by
  unfold putI64 at h
  split_ifs at h
  cases h
  exact toBe_length 8 _

namespace Machine

open Sys2Proof.Claims

/-! ## Connection frames -/

/-- The fields of a connection body, each with its offset and its width (R191, R193; PRESUMED, log 14). -/
def connectionFields : List (Nat × Nat) :=
  [(0, 2), (2, 2), (4, 8), (12, 4), (16, 4), (20, 4), (24, 2), (26, 4), (30, 2)]

/-- The fields of a ConnectionRequest, each read at its place (R191). -/
def connectionRequestAt (b : Bytes) : ConnectionRequest :=
  { majorVersion := beNat (slice b 0 2), minorVersion := beNat (slice b 2 2), stationName := rstrip (slice b 4 8)
    stationType := rstrip (slice b 12 4), serviceType := rstrip (slice b 16 4), ipAddress := be32 b 20
    port := beNat (slice b 24 2), secondIpAddress := be32 b 26, secondPort := beNat (slice b 30 2) }

/-- The same fields under the names of a ConnectionResponse (R193). -/
def connectionResponseOf (r : ConnectionRequest) : ConnectionResponse :=
  { majorVersion := r.majorVersion, minorVersion := r.minorVersion, responderName := r.stationName
    responderType := r.stationType, serviceType := r.serviceType, ipAddress := r.ipAddress
    port := r.port, secondIpAddress := r.secondIpAddress, secondPort := r.secondPort }

/-- A failure at the one field that begins within the body and does not end there. -/
def ConnectionFieldShort (b : Bytes) (sub : MalformedSub) (p : Nat) : Prop :=
  sub = .shortField ∧ ∃ w, (p, w) ∈ connectionFields ∧ p ≤ b.length ∧ b.length < p + w

theorem connectionFields_end {o w : Nat} (h : (o, w) ∈ connectionFields) : o + w ≤ 32 := by
  have hall : ∀ x ∈ connectionFields, x.1 + x.2 ≤ 32 := by decide
  exact hall (o, w) h

theorem connReqDec_meets (b : Bytes) : (connReqDec b).Meets
    (fun r o => r = connectionRequestAt b ∧ o = 32 ∧ 32 ≤ b.length) (ConnectionFieldShort b) := by
  have short {p w : Nat} (hmem : (p, w) ∈ connectionFields) (hbegin : p ≤ b.length) (hend : b.length < p + w) :
      ConnectionFieldShort b .shortField p := ⟨rfl, w, hmem, hbegin, hend⟩
  rw [connReqDec]
  refine .andThen (getU16_meets (fun hmajor => ?_) (short (by decide) (Nat.zero_le _)))
  refine .andThen (getU16_meets (fun hminor => ?_) (short (by decide) hmajor))
  refine .andThen (getStr_meets (fun hname => ?_) (short (by decide) hminor))
  refine .andThen (getStr_meets (fun htype => ?_) (short (by decide) hname))
  refine .andThen (getStr_meets (fun hservice => ?_) (short (by decide) htype))
  refine .andThen (getU32_meets (fun hip => ?_) (short (by decide) hservice))
  refine .andThen (getU16_meets (fun hport => ?_) (short (by decide) hip))
  refine .andThen (getU32_meets (fun hip' => ?_) (short (by decide) hport))
  refine .andThen (getU16_meets (fun hport' => ?_) (short (by decide) hip'))
  exact Res.meets_ok ⟨rfl, rfl, hport'⟩

/-- Both connection bodies have one layout (R191, R193). -/
theorem connRspDec_eq (b : Bytes) : connRspDec b = (connReqDec b).andThen fun r o => .ok (connectionResponseOf r) o := by
  simp only [connReqDec, connRspDec, Res.andThen_assoc]
  rfl

theorem connReqDec_of_fits {b : Bytes} (h : 32 ≤ b.length) : connReqDec b = .ok (connectionRequestAt b) 32 := by
  obtain ⟨hok, hfail⟩ := connReqDec_meets b
  cases hdec : connReqDec b with
  | ok r o =>
    obtain ⟨rfl, rfl, -⟩ := hok r o hdec
    rfl
  | fail sub p =>
    obtain ⟨-, w, hmem, -, hend⟩ := hfail sub p hdec
    have hle := connectionFields_end hmem
    omega

theorem connReqDec_of_short {b : Bytes} (h : b.length < 32) :
    ∃ o w, (o, w) ∈ connectionFields ∧ o ≤ b.length ∧ b.length < o + w ∧ connReqDec b = .fail .shortField o := by
  obtain ⟨hok, hfail⟩ := connReqDec_meets b
  cases hdec : connReqDec b with
  | ok r o =>
    obtain ⟨-, -, hfits⟩ := hok r o hdec
    omega
  | fail sub p =>
    obtain ⟨rfl, w, hmem, hbegin, hend⟩ := hfail sub p hdec
    exact ⟨p, w, hmem, hbegin, hend, rfl⟩

/-- The cursor after a connection body is the length of its layout, so a decoder that uses all the bytes has 32 of them. -/
theorem connReqDec_cursor {b : Bytes} {r : ConnectionRequest} {o : Nat} (h : connReqDec b = .ok r o) : o = 32 := by
  obtain ⟨hok, -⟩ := connReqDec_meets b
  obtain ⟨-, ho, -⟩ := hok r o h
  exact ho

theorem connRspDec_cursor {b : Bytes} {r : ConnectionResponse} {o : Nat} (h : connRspDec b = .ok r o) : o = 32 := by
  rw [connRspDec_eq, Res.andThen_ok_iff] at h
  obtain ⟨_, _, hreq, hrsp⟩ := h
  cases hrsp
  exact connReqDec_cursor hreq

/-! ## Option frames -/

/-- Option record number `i`, its fields read at their places (R195). -/
def optionRecordAt (b : Bytes) (i : Nat) : OptionRecord :=
  { optionType := be32 b (optionAt b i), value := slice b (optionAt b i + 8) (be32 b (optionAt b i + 4)) }

/-- Where option record number `i` fails if the body ends within it: at its type, at its size, or at its value. -/
def optionFaultAt (b : Bytes) (i : Nat) : Nat :=
  if b.length < optionAt b i + 4 then optionAt b i
  else if b.length < optionAt b i + 8 then optionAt b i + 4 else optionAt b i + 8

/-- A failure in one of the first `n` option records, the one that the body ends within. -/
def OptionShort (b : Bytes) (n : Nat) (sub : MalformedSub) (p : Nat) : Prop :=
  sub = .shortField ∧ ∃ i, i < n ∧ optionAt b i ≤ b.length ∧ b.length < optionAt b (i + 1) ∧ p = optionFaultAt b i

theorem optionAt_mono (b : Bytes) : Monotone (optionAt b) :=
  monotone_nat_of_le_succ fun i => by
    rw [optionAt]
    omega

theorem optionDec_meets {b : Bytes} {i : Nat} (hbegin : optionAt b i ≤ b.length) : (optionDec b (optionAt b i)).Meets
    (fun x o => x = optionRecordAt b i ∧ o = optionAt b (i + 1) ∧ optionAt b (i + 1) ≤ b.length)
    (OptionShort b (i + 1)) := by
  have hnext : optionAt b (i + 1) = optionAt b i + 4 + 4 + pad4 (be32 b (optionAt b i + 4)) := rfl
  have short {p : Nat} (hend : b.length < optionAt b (i + 1)) (hp : p = optionFaultAt b i) :
      OptionShort b (i + 1) .shortField p := ⟨rfl, i, Nat.lt_succ_self i, hbegin, hend, hp⟩
  rw [optionDec]
  refine .andThen (getU32_meets (fun htype => ?_) fun hshort => short (by omega) (if_pos hshort).symm)
  have hpast : ¬ b.length < optionAt b i + 4 := Nat.not_lt.mpr htype
  refine .andThen (.andThen (getU32_meets (fun hsize => need_meets (fun hvalue => ?_) fun hshort => short ?_ ?_)
    fun hshort => short (by omega) ?_))
  · exact Res.meets_ok ⟨rfl, rfl, hvalue⟩
  · rwa [hnext]
  · rw [optionFaultAt, if_neg hpast, if_neg (Nat.not_lt.mpr hsize)]
  · rw [optionFaultAt, if_neg hpast, if_pos hshort]

/-- The records from number `i` up to number `m` (R195). -/
theorem optionsDec_meets {b : Bytes} (n : Nat) {i m : Nat} (hm : i + n = m) (hbegin : optionAt b i ≤ b.length) :
    (optionsDec b n (optionAt b i)).Meets
      (fun xs o => xs = (List.range' i n).map (optionRecordAt b) ∧ o = optionAt b m ∧ optionAt b m ≤ b.length)
      (OptionShort b m) := by
  induction n generalizing i with
  | zero =>
    subst hm
    exact Res.meets_ok ⟨rfl, rfl, hbegin⟩
  | succ n ih =>
    obtain ⟨hok, hfail⟩ := optionDec_meets hbegin
    refine .andThen ⟨fun x o hx => ?_, fun sub p hx => ?_⟩
    · obtain ⟨rfl, rfl, hnext⟩ := hok x o hx
      obtain ⟨hok', hfail'⟩ := ih (i := i + 1) (by omega) hnext
      refine .andThen ⟨fun xs o hxs => ?_, hfail'⟩
      obtain ⟨rfl, rfl, hend⟩ := hok' xs o hxs
      exact Res.meets_ok ⟨rfl, rfl, hend⟩
    · obtain ⟨rfl, j, hj, hfault⟩ := hfail sub p hx
      exact ⟨rfl, j, by omega, hfault⟩

theorem optionListDec_eq {b : Bytes} (h : 4 ≤ b.length) : optionListDec b = optionsDec b (be32 b 0) (optionAt b 0) := by
  rw [optionListDec, getU32_of_fits h]
  rfl

theorem optionListDec_of_fits {b : Bytes} (h : 4 ≤ b.length) (hfits : optionAt b (be32 b 0) ≤ b.length) :
    optionListDec b = .ok ((List.range (be32 b 0)).map (optionRecordAt b)) (optionAt b (be32 b 0)) := by
  obtain ⟨hok, hfail⟩ := optionsDec_meets (b := b) (be32 b 0) (i := 0) (Nat.zero_add _) h
  rw [optionListDec_eq h, List.range_eq_range']
  cases hdec : optionsDec b (be32 b 0) (optionAt b 0) with
  | ok xs o =>
    obtain ⟨rfl, rfl, -⟩ := hok xs o hdec
    rfl
  | fail sub p =>
    obtain ⟨-, i, hi, -, hend, -⟩ := hfail sub p hdec
    have hle : optionAt b (i + 1) ≤ optionAt b (be32 b 0) := optionAt_mono b hi
    omega

theorem optionListDec_of_short {b : Bytes} (h : 4 ≤ b.length) (hshort : b.length < optionAt b (be32 b 0)) :
    ∃ i, i < be32 b 0 ∧ optionAt b i ≤ b.length ∧ b.length < optionAt b (i + 1)
      ∧ optionListDec b = .fail .shortField (optionFaultAt b i) := by
  obtain ⟨hok, hfail⟩ := optionsDec_meets (b := b) (be32 b 0) (i := 0) (Nat.zero_add _) h
  rw [optionListDec_eq h]
  cases hdec : optionsDec b (be32 b 0) (optionAt b 0) with
  | ok xs o =>
    obtain ⟨-, -, hend⟩ := hok xs o hdec
    omega
  | fail sub p =>
    obtain ⟨rfl, i, hi, hbegin, hend, rfl⟩ := hfail sub p hdec
    exact ⟨i, hi, hbegin, hend, rfl⟩

theorem optionListDec_of_no_count {b : Bytes} (h : b.length < 4) : optionListDec b = .fail .shortField 0 :=
  (Res.andThen_fail_iff ..).mpr (.inl ((need_fail_iff ..).mpr ⟨by omega, rfl, rfl⟩))

/-- Both option bodies are an option list (R195, R197). -/
theorem optDec_of_ok {b : Bytes} {xs : List OptionRecord} {o : Nat} (h : optionListDec b = .ok xs o) :
    optReqDec b = .ok { options := xs } o ∧ optRspDec b = .ok { options := xs } o := by
  rw [optReqDec, optRspDec, h]
  exact ⟨rfl, rfl⟩

theorem optDec_of_fail {b : Bytes} {sub : MalformedSub} {p : Nat} (h : optionListDec b = .fail sub p) :
    optReqDec b = .fail sub p ∧ optRspDec b = .fail sub p := by
  rw [optReqDec, optRspDec, h]
  exact ⟨rfl, rfl⟩

/-! ## Command and alert frames -/

/-- A CommandResponse has the fields of a CommandRequest, then one more message (R201, R203). -/
theorem cmdRspDec_eq (b : Bytes) : cmdRspDec b = (cmdReqDec b).andThen fun r o => (getVar b o).andThen fun msg o =>
    .ok { responderStation := r.stationName, siteName := r.siteName, channelName := r.channelName
          locationName := r.locationName, timeStamp := r.timeStamp, commandRequestMessage := r.commandMessage
          responseMessage := msg } o := by
  simp only [cmdReqDec, cmdRspDec, Res.andThen_assoc]
  rfl

theorem cmdReqDec_of_fits {b : Bytes} (h : 42 + pad4 (be32 b 38) ≤ b.length) : cmdReqDec b = .ok
    { stationName := rstrip (slice b 0 8), siteName := rstrip (slice b 8 5), channelName := rstrip (slice b 13 3)
      locationName := rstrip (slice b 16 2), timeStamp := slice b 18 20, commandMessage := slice b 42 (be32 b 38) }
    (42 + pad4 (be32 b 38)) := by
  simp only [cmdReqDec, getStr_of_fits (b := b) (o := 0) (w := 8) (by omega),
    getStr_of_fits (b := b) (o := 8) (w := 5) (by omega), getStr_of_fits (b := b) (o := 13) (w := 3) (by omega),
    getStr_of_fits (b := b) (o := 16) (w := 2) (by omega), getTs_of_fits (b := b) (o := 18) (by omega),
    getVar_of_fits (b := b) (o := 38) h, Res.andThen, Nat.reduceAdd]

theorem cmdRspDec_of_fits {b : Bytes} {o : Nat} (ho : o = 42 + pad4 (be32 b 38)) (h : o + 4 + pad4 (be32 b o) ≤ b.length) :
    cmdRspDec b = .ok
      { responderStation := rstrip (slice b 0 8), siteName := rstrip (slice b 8 5), channelName := rstrip (slice b 13 3)
        locationName := rstrip (slice b 16 2), timeStamp := slice b 18 20, commandRequestMessage := slice b 42 (be32 b 38)
        responseMessage := slice b (o + 4) (be32 b o) } (o + 4 + pad4 (be32 b o)) := by
  rw [cmdRspDec_eq, cmdReqDec_of_fits (by omega), Res.andThen, ← ho, getVar_of_fits h]
  rfl

theorem alertDec_of_fits {b : Bytes} (h : 4 + pad4 (be32 b 0) ≤ b.length) :
    alertDec b = .ok { message := slice b 4 (be32 b 0) } (4 + pad4 (be32 b 0)) := by
  rw [alertDec, getVar_of_fits (by omega)]
  simp only [Res.andThen, Nat.zero_add]

/-! ## The bytes of an Acknack body -/

/-- Each gap takes 16 bytes (R220). -/
theorem end_of_gapsEnc {b : Bytes} {o e : Nat} {gs : List (Int × Int)} (h : Stands b o e (gapsEnc gs)) :
    e = o + 16 * gs.length := by
  induction gs generalizing o with
  | nil => exact h.eq_of_nil.symm
  | cons g gs ih =>
    have hrest : e = o + 8 + 8 + 16 * gs.length :=
      ih ((h.tail_of_width fun _ => putI64_length).tail_of_width fun _ => putI64_length)
    rw [hrest, List.length_cons]
    omega

theorem acknackEnc_length {r : Acknack} {out : Bytes} (h : acknackEnc r = .ok out) :
    out.length = 40 + 16 * r.gapRanges.length :=
  end_of_gapsEnc <| ((((Stands.of_putAll h).tail_of_width fun _ => putStr_length).tail_of_width
    fun _ => putI64_length).tail_of_width fun _ => putI64_length).tail_of_width fun _ => putUInt_length

end Machine

end Sys2Proof

namespace Sys2Proof.Proofs

open Sys2Proof.Machine Sys2Proof.Claims

/-- Settles O11: each decoder walked once, field by field; the response bodies through the request bodies. -/
theorem controlBodyLayouts : Obligations.ControlBodyLayouts := by
  refine ⟨fun b hfits => ?_, fun b hshort => ?_, fun b xs hcount hfits hxs => ?_,
    fun b hshort => optDec_of_fail (optionListDec_of_no_count hshort), fun b hcount hshort => ?_,
    fun b => cmdReqDec_of_fits, fun b hfits => ?_, fun b => alertDec_of_fits⟩
  · have hreq := connReqDec_of_fits hfits
    exact ⟨hreq, by rw [connRspDec_eq, hreq]; rfl⟩
  · obtain ⟨o, w, hmem, hbegin, hend, hreq⟩ := connReqDec_of_short hshort
    exact ⟨o, w, hmem, hbegin, hend, hreq, by rw [connRspDec_eq, hreq]; rfl⟩
  · subst hxs
    exact optDec_of_ok (optionListDec_of_fits hcount hfits)
  · obtain ⟨i, hi, hbegin, hend, hdec⟩ := optionListDec_of_short hcount hshort
    exact ⟨i, _, hi, hbegin, hend, rfl, optDec_of_fail hdec⟩
  · rw [cmdRspDec_of_fits rfl hfits, show 42 + pad4 (be32 b 38) + 4 = 46 + pad4 (be32 b 38) by omega]

/-- Settles O14: each encoder's fields stand in its output, where the decoder reads them back; a connection body ends where
its decoder stops, an Acknack body after its gaps. -/
theorem plainBodiesRoundTrip : Obligations.PlainBodiesRoundTrip := by
  refine ⟨fun r out h => ?_, fun r out h => ?_, fun _ _ => optReqDec_of_optReqEnc, fun _ _ => optRspDec_of_optRspEnc,
    fun r out h => ⟨acknackEnc_length h, acknackDec_of_acknackEnc h⟩, fun _ _ => alertDec_of_alertEnc,
    fun _ _ => cmdReqDec_of_cmdReqEnc, fun _ _ => cmdRspDec_of_cmdRspEnc, fun _ _ => customResetDec_of_customResetEnc⟩
  · have hdec := connReqDec_of_connReqEnc h
    have hlength := connReqDec_cursor hdec
    exact ⟨hlength, by rw [hdec, hlength]⟩
  · have hdec := connRspDec_of_connRspEnc h
    have hlength := connRspDec_cursor hdec
    exact ⟨hlength, by rw [hdec, hlength]⟩

/-- Settles O21: type 13 has no body decoder, so its frame is one whose body fails, at the first body byte. -/
theorem reservedTypeIsUnsupported : Obligations.ReservedTypeIsUnsupported := by
  intro f s hwf
  obtain ⟨-, hexec⟩ := exec_frame_of_body_fail (t := .cd1Encapsulation) (s := s) hwf rfl
  exact hexec

end Sys2Proof.Proofs

/-! SUPPORT. An Acknack body that ends too early (R111, R221), the flat gap array as pairs, and an `ENCODE` of the raw form
(R224, R268). -/

namespace Sys2Proof

theorem getI64_meets {b : Bytes} {o : Nat} {P : Int → Nat → Prop} {Q : MalformedSub → Nat → Prop}
    (hok : o + 8 ≤ b.length → P (sext64 (be64 b o)) (o + 8)) (hfail : b.length < o + 8 → Q .shortField o) :
    (getI64 b o).Meets P Q := by
  have hword : (getU64 b o).Meets (fun v o' => (Res.ok (sext64 v) o').Meets P Q) Q :=
    need_meets (fun h => Res.meets_ok (hok h)) hfail
  exact hword.andThen

namespace Machine

/-! ## Too few bytes -/

/-- A failure for want of bytes at a place within the body. -/
def FieldShort (b : Bytes) (sub : MalformedSub) (p : Nat) : Prop := sub = .shortField ∧ p ≤ b.length

/-- A gap list that decodes is held in full, 16 bytes per gap; no other fault than a short field is found in one (R221). -/
theorem gapsDec_meets {b : Bytes} (n : Nat) {o : Nat} (hbegin : o ≤ b.length) :
    (gapsDec b n o).Meets (fun _ _ => o + 16 * n ≤ b.length) (FieldShort b) := by
  induction n generalizing o with
  | zero => exact Res.meets_ok hbegin
  | succ n ih =>
    refine .andThen (getI64_meets (fun hstart => ?_) fun _ => ⟨rfl, hbegin⟩)
    refine .andThen (getI64_meets (fun hend => ?_) fun _ => ⟨rfl, hstart⟩)
    obtain ⟨hok, hfail⟩ := ih hend
    refine .andThen ⟨fun gs o' hgs => Res.meets_ok ?_, hfail⟩
    have hfits := hok gs o' hgs
    omega

/-- The same of a whole Acknack body: an ill-formed gap array is no fault that its decoder knows (R221, R222). -/
theorem acknackDec_meets (b : Bytes) :
    (acknackDec b).Meets (fun _ _ => 40 + 16 * be32 b 36 ≤ b.length) (FieldShort b) := by
  refine .andThen (getStr_meets (fun hframeset => ?_) fun _ => ⟨rfl, Nat.zero_le _⟩)
  refine .andThen (getI64_meets (fun hlowest => ?_) fun _ => ⟨rfl, hframeset⟩)
  refine .andThen (getI64_meets (fun hhighest => ?_) fun _ => ⟨rfl, hlowest⟩)
  refine .andThen (getU32_meets (fun hcount => ?_) fun _ => ⟨rfl, hhighest⟩)
  obtain ⟨hok, hfail⟩ := gapsDec_meets (be32 b 36) hcount
  exact .andThen ⟨fun gs o hgs => Res.meets_ok (hok gs o hgs), hfail⟩

theorem acknackDec_of_short {b : Bytes} (h : b.length < 40 + 16 * be32 b 36) :
    ∃ p, p ≤ b.length ∧ acknackDec b = .fail .shortField p := by
  obtain ⟨hok, hfail⟩ := acknackDec_meets b
  cases hdec : acknackDec b with
  | ok r o =>
    have hfits := hok r o hdec
    omega
  | fail sub p =>
    obtain ⟨rfl, hp⟩ := hfail sub p hdec
    exact ⟨p, hp, rfl⟩

/-! ## The flat gap array -/

theorem pairUp_length : ∀ flat : List Int, (pairUp flat).length = flat.length / 2
  | [] => rfl
  | [_] => (Nat.div_eq_of_lt Nat.one_lt_two).symm
  | _ :: _ :: rest => by
    rw [pairUp, List.length_cons, pairUp_length rest, List.length_cons, List.length_cons]
    omega

/-- Gap number `i` is `(flat[2i], flat[2i+1])` (R224). -/
theorem pairUp_getElem? {x y : Int} : ∀ (flat : List Int) (i : Nat), flat[2 * i]? = some x → flat[2 * i + 1]? = some y →
    (pairUp flat)[i]? = some (x, y)
  | [], _, hx, _ => by cases hx
  | [_], _, _, hy => by cases hy
  | _ :: _ :: _, 0, hx, hy => by
    cases hx
    cases hy
    rfl
  | _ :: _ :: rest, i + 1, hx, hy => pairUp_getElem? rest i hx hy

section MkAcknack

variable (fs : Bytes) (lo hi : Int) {n : Nat} {flat : List Int}

theorem mkAcknack_of_odd (h : flat.length % 2 ≠ 0) : mkAcknack fs lo hi n flat = .error .badGaps := if_pos h

theorem mkAcknack_of_count_ne (h : n ≠ flat.length / 2) : mkAcknack fs lo hi n flat = .error .badGaps := by
  rw [mkAcknack, if_pos h, ite_self]

theorem mkAcknack_of_length_eq (h : flat.length = 2 * n) : mkAcknack fs lo hi n flat =
    .ok { framesetAcked := fs, lowestSeqNum := lo, highestSeqNum := hi, gapRanges := pairUp flat } := by
  rw [mkAcknack, if_neg (by omega), if_neg (by omega)]

end MkAcknack

/-! ## `ENCODE` of the raw form -/

theorem resolveVariant_of_mkAcknack_error {c : Cfg} {req : EncReq} {fs : Bytes} {lo hi : Int} {n : Nat} {flat : List Int}
    {e : RejectSub} (h : req.variant = .rawAcknack fs lo hi n flat) (he : mkAcknack fs lo hi n flat = .error e) :
    resolveVariant c req = .error e := by
  simp only [resolveVariant, h, he]

theorem encodeFrame_of_resolveVariant_error {c : Cfg} {req : EncReq} {e : RejectSub}
    (hty : req.frameType = (requestTag req.variant).code) (he : resolveVariant c req = .error e) :
    encodeFrame c req = .error e := by
  simp only [encodeFrame, hty, ne_eq, not_true_eq_false, if_false, he]

/-- Beyond its tag and the record it stands for, a request's variant does not matter (R180). -/
theorem encodeFrame_variant_congr {c : Cfg} {req : EncReq} {v : EncVariant} (htag : requestTag req.variant = requestTag v)
    (hres : resolveVariant c req = resolveVariant c { req with variant := v }) :
    encodeFrame c req = encodeFrame c { req with variant := v } := by
  simp only [encodeFrame, htag, hres]

theorem encodeReq_rawAcknack {c : Cfg} {req : EncReq} {fs : Bytes} {lo hi : Int} {n : Nat} {flat : List Int} {a : Acknack}
    (s : State) (hv : req.variant = .rawAcknack fs lo hi n flat) (ha : mkAcknack fs lo hi n flat = .ok a) :
    encodeReq c req s = encodeReq c { req with variant := .record (.acknack a) } s := by
  have htag : requestTag req.variant = requestTag (.record (.acknack a)) := by rw [hv]; rfl
  have hres : resolveVariant c req = resolveVariant c { req with variant := .record (.acknack a) } :=
    resolveVariant_rawAcknack hv ha
  rw [encodeReq, encodeReq, encodeFrame_variant_congr htag hres]

end Machine

end Sys2Proof

namespace Sys2Proof.Proofs

open Sys2Proof.Machine Sys2Proof.Claims

/-- Settles O12: the body that fits read at its places, the one that does not by what its decoder can answer. -/
theorem acknackLayout : Obligations.AcknackLayout :=
  ⟨fun _ => acknackDec_of_fits, fun b hshort => acknackDec_of_short (by omega)⟩

/-- Settles O15: `MKACKNACK` by its two checks, `ENCODE` by what it resolves the raw form to; the decoder fails for want of
bytes alone. -/
theorem rawGapArraysAreChecked : Obligations.RawGapArraysAreChecked := by
  refine ⟨fun fs lo hi n flat => ⟨mkAcknack_of_odd fs lo hi, mkAcknack_of_count_ne fs lo hi, fun hlength => ?_⟩,
    fun req s fs lo hi n flat hphase hv => ?_, fun b sub p hdec => ?_⟩
  · refine ⟨_, mkAcknack_of_length_eq fs lo hi hlength, rfl, rfl, rfl, ?_, fun i hi => ?_⟩
    · rw [pairUp_length]
      omega
    · have hx := List.getElem?_eq_getElem (l := flat) (i := 2 * i) (by omega)
      have hy := List.getElem?_eq_getElem (l := flat) (i := 2 * i + 1) (by omega)
      exact ⟨_, _, hx, hy, pairUp_getElem? flat i hx hy⟩
  · have hcode : (requestTag req.variant).code = 6 := by rw [hv]; rfl
    simp only [exec_encode_of_not_waiting _ hphase]
    refine ⟨fun hne => ?_, fun hty hbad => ?_, fun a ha => ?_⟩
    · rw [encodeReq_of_error s (encodeFrame_typeMismatch _ req (by rwa [hcode]))]
      rfl
    · have hres := resolveVariant_of_mkAcknack_error (c := Config.cfg) hv hbad
      rw [encodeReq_of_error s (encodeFrame_of_resolveVariant_error (hty.trans hcode.symm) hres)]
      rfl
    · rw [encodeReq_rawAcknack s hv ha]
  · obtain ⟨-, hfail⟩ := acknackDec_meets b
    obtain ⟨rfl, -⟩ := hfail sub p hdec
    decide

end Sys2Proof.Proofs

/-! SUPPORT. The loop over the slots of a Data body, slot by slot (R248, R249), and what its header decoder can answer (R233,
R234). -/

namespace Sys2Proof.Machine

open Sys2Proof.Claims

/-! ## One slot -/

section Slot

variable {c : Cfg} {b : Bytes} {start i o : Nat}

theorem slotAt_zero (c : Cfg) (b : Bytes) (start : Nat) : slotAt c b start 0 = (start, true) := rfl

theorem slotAt_succ_of_ok {f : ChannelSubframe} {o' : Nat} (hat : slotAt c b start i = (o, true))
    (hdec : csfDec c b o = .ok f o') : slotAt c b start (i + 1) = (o', true) := by
  simp only [slotAt, hat, hdec]

theorem slotAt_succ_of_fail {sub : MalformedSub} {p : Nat} (hat : slotAt c b start i = (o, true))
    (hdec : csfDec c b o = .fail sub p) : slotAt c b start (i + 1)
      = if o + 4 ≤ b.length ∧ o + 4 + be32 b o ≤ b.length then (o + 4 + be32 b o, true) else (o, false) := by
  simp only [slotAt, hat, hdec]

theorem slotAt_succ_of_gaveUp (hat : slotAt c b start i = (o, false)) : slotAt c b start (i + 1) = (o, false) := by
  simp only [slotAt, hat]

theorem slotFrame_of_ok {f : ChannelSubframe} {o' : Nat} (hat : slotAt c b start i = (o, true))
    (hdec : csfDec c b o = .ok f o') : slotFrame c b start i = some f := by
  simp only [slotFrame, hat, hdec]

theorem slotFrame_of_fail {sub : MalformedSub} {p : Nat} (hat : slotAt c b start i = (o, true))
    (hdec : csfDec c b o = .fail sub p) : slotFrame c b start i = none := by
  simp only [slotFrame, hat, hdec]

theorem slotFrame_of_gaveUp (hat : slotAt c b start i = (o, false)) : slotFrame c b start i = none := by
  simp only [slotFrame, hat]

theorem slotSkip_of_ok {f : ChannelSubframe} {o' : Nat} (hat : slotAt c b start i = (o, true))
    (hdec : csfDec c b o = .ok f o') : slotSkip c b start i = none := by
  simp only [slotSkip, hat, hdec]

theorem slotSkip_of_fail {sub : MalformedSub} {p : Nat} (hat : slotAt c b start i = (o, true))
    (hdec : csfDec c b o = .fail sub p) :
    slotSkip c b start i = some { index := i, subcause := sub.code, offset := o } := by
  simp only [slotSkip, hat, hdec]

theorem slotSkip_of_gaveUp (hat : slotAt c b start i = (o, false)) :
    slotSkip c b start i = some { index := i, subcause := MalformedSub.shortField.code, offset := o } := by
  simp only [slotSkip, hat]
  rfl

theorem slotLengthDiffers_of_ok {f : ChannelSubframe} {o' : Nat} (hat : slotAt c b start i = (o, true))
    (hdec : csfDec c b o = .ok f o') : SlotLengthDiffers c b start i ↔ o' - o ≠ 4 + f.channelLength := by
  simp [SlotLengthDiffers, hat, hdec]

theorem not_slotLengthDiffers_of_fail {sub : MalformedSub} {p : Nat} (hat : slotAt c b start i = (o, true))
    (hdec : csfDec c b o = .fail sub p) : ¬ SlotLengthDiffers c b start i := by
  simp [SlotLengthDiffers, hat, hdec]

theorem not_slotLengthDiffers_of_gaveUp (hat : slotAt c b start i = (o, false)) : ¬ SlotLengthDiffers c b start i := by
  simp [SlotLengthDiffers, hat]

/-- A skip record names its own slot and the place where that slot begins. -/
theorem slotSkip_place {k : SkipRecord} (h : slotSkip c b start i = some k) :
    k.index = i ∧ k.offset = (slotAt c b start i).1 := by
  rcases hat : slotAt c b start i with ⟨o, _ | _⟩
  · rw [slotSkip_of_gaveUp hat] at h
    cases h
    exact ⟨rfl, rfl⟩
  · cases hdec : csfDec c b o with
    | ok f o' =>
      rw [slotSkip_of_ok hat hdec] at h
      cases h
    | fail sub p =>
      rw [slotSkip_of_fail hat hdec] at h
      cases h
      exact ⟨rfl, rfl⟩

/-- The skip records of the slots in order carry rising slot numbers (R248). -/
theorem slotSkip_indices_pairwise (c : Cfg) (b : Bytes) (start n : Nat) :
    (((List.range n).filterMap (slotSkip c b start)).map SkipRecord.index).Pairwise (· < ·) := by
  rw [List.pairwise_map, List.pairwise_filterMap]
  refine List.pairwise_lt_range.imp fun {i j} hij k hk l hl => ?_
  obtain ⟨rfl, -⟩ := slotSkip_place hk
  obtain ⟨rfl, -⟩ := slotSkip_place hl
  exact hij

/-- Every slot begins within the body (R60). -/
theorem slotAt_le (hstart : start ≤ b.length) (i : Nat) : (slotAt c b start i).1 ≤ b.length := by
  induction i with
  | zero => exact hstart
  | succ i ih =>
    rcases hat : slotAt c b start i with ⟨o, _ | _⟩
    · rwa [slotAt_succ_of_gaveUp hat, ← hat]
    · rw [hat] at ih
      cases hdec : csfDec c b o with
      | ok f o' =>
        obtain ⟨hok, -⟩ := csfDec_meets c b o
        obtain ⟨-, rfl, hfits⟩ := hok f o' hdec
        rw [slotAt_succ_of_ok hat hdec]
        exact hfits.end_le
      | fail sub p =>
        rw [slotAt_succ_of_fail hat hdec]
        split_ifs with hnext
        · obtain ⟨-, hplace⟩ := hnext
          exact hplace
        · exact ih

theorem slotSkip_bounds (hstart : start ≤ b.length) (n : Nat) :
    ∀ k ∈ (List.range n).filterMap (slotSkip c b start), k.index < n ∧ k.offset ≤ b.length := by
  intro k hk
  obtain ⟨i, hi, hskip⟩ := List.mem_filterMap.mp hk
  obtain ⟨rfl, hoffset⟩ := slotSkip_place hskip
  exact ⟨List.mem_range.mp hi, hoffset ▸ slotAt_le hstart _⟩

end Slot

/-! ## The loop -/

/-- What `r` holds is what the slots from `i` on, `n` of them, give one by one. -/
structure SlotsAre (c : Cfg) (b : Bytes) (start i n : Nat) (r : Slots) : Prop where
  subframes_eq : r.subframes = (List.range' i n).filterMap (slotFrame c b start)
  skips_eq : r.skips = (List.range' i n).filterMap (slotSkip c b start)
  chlen_iff : r.chlen = true ↔ ∃ j ∈ List.range' i n, SlotLengthDiffers c b start j
  cursor_eq : r.cursor = (slotAt c b start (i + n)).1

section Loop

variable {c : Cfg} {b : Bytes} {start i o : Nat}

theorem SlotsAre.nil {looking : Bool} (hat : slotAt c b start i = (o, looking)) :
    SlotsAre c b start i 0 { subframes := [], skips := [], chlen := false, cursor := o } :=
  ⟨rfl, rfl, by simp, by rw [Nat.add_zero, hat]⟩

/-- A slot that decodes comes before the rest with its subframe. -/
theorem SlotsAre.cons_ok {n : Nat} {rest : Slots} {f : ChannelSubframe} {o' : Nat} (h : SlotsAre c b start (i + 1) n rest)
    (hat : slotAt c b start i = (o, true)) (hdec : csfDec c b o = .ok f o') : SlotsAre c b start i (n + 1)
      { rest with subframes := f :: rest.subframes, chlen := (o' - o != 4 + f.channelLength) || rest.chlen } where
  subframes_eq := by rw [List.range'_succ, List.filterMap_cons_some (slotFrame_of_ok hat hdec), h.subframes_eq]
  skips_eq := by rw [List.range'_succ, List.filterMap_cons_none (slotSkip_of_ok hat hdec), h.skips_eq]
  chlen_iff := by
    rw [List.range'_succ, List.exists_mem_cons_iff, slotLengthDiffers_of_ok hat hdec, ← h.chlen_iff, Bool.or_eq_true,
      bne_iff_ne]
  cursor_eq := by rw [h.cursor_eq, Nat.add_right_comm, Nat.add_assoc]

/-- A slot without a subframe comes before the rest with its skip record. -/
theorem SlotsAre.cons_skip {n : Nat} {rest : Slots} {k : SkipRecord} (h : SlotsAre c b start (i + 1) n rest)
    (hframe : slotFrame c b start i = none) (hskip : slotSkip c b start i = some k)
    (hsame : ¬ SlotLengthDiffers c b start i) :
    SlotsAre c b start i (n + 1) { rest with skips := k :: rest.skips } where
  subframes_eq := by rw [List.range'_succ, List.filterMap_cons_none hframe, h.subframes_eq]
  skips_eq := by rw [List.range'_succ, List.filterMap_cons_some hskip, h.skips_eq]
  chlen_iff := by rw [List.range'_succ, List.exists_mem_cons_iff, or_iff_right hsame, ← h.chlen_iff]
  cursor_eq := by rw [h.cursor_eq, Nat.add_right_comm, Nat.add_assoc]

/-- Once the loop has given up, it logs all slots to come and stays (R248). -/
theorem giveUp_slotsAre (n : Nat) (hat : slotAt c b start i = (o, false)) :
    SlotsAre c b start i n { subframes := [], skips := giveUp o n i, chlen := false, cursor := o } := by
  induction n generalizing i with
  | zero => exact .nil hat
  | succ n ih =>
    exact (ih (slotAt_succ_of_gaveUp hat)).cons_skip (slotFrame_of_gaveUp hat) (slotSkip_of_gaveUp hat)
      (not_slotLengthDiffers_of_gaveUp hat)

theorem slotsDec_slotsAre (n : Nat) (hat : slotAt c b start i = (o, true)) :
    SlotsAre c b start i n (slotsDec c b n i o) := by
  induction n generalizing i o with
  | zero => exact .nil hat
  | succ n ih =>
    rw [slotsDec]
    cases hdec : csfDec c b o with
    | ok f o' => exact (ih (slotAt_succ_of_ok hat hdec)).cons_ok hat hdec
    | fail sub p =>
      have hframe := slotFrame_of_fail hat hdec
      have hskip := slotSkip_of_fail hat hdec
      have hsame := not_slotLengthDiffers_of_fail hat hdec
      have hnext := slotAt_succ_of_fail hat hdec
      dsimp only
      split_ifs at hnext ⊢
      · exact (ih hnext).cons_skip hframe hskip hsame
      · exact (giveUp_slotsAre n hnext).cons_skip hframe hskip hsame

end Loop

/-! ## The header -/

/-- `REALIGN` fires exactly when it is on and four null bytes follow (R234). -/
theorem realignAt_eq (on : Bool) (b : Bytes) (o : Nat) : realignAt on b o
    = if on = true ∧ o + 4 ≤ b.length ∧ slice b o 4 = [0, 0, 0, 0] then (o + 4, true) else (o, false) := by
  have hfires : (on && peek4 b o == some (zeros 4)) = true
      ↔ on = true ∧ o + 4 ≤ b.length ∧ slice b o 4 = [0, 0, 0, 0] := by
    simp [peek4, zeros, List.replicate]
  simp only [realignAt, hfires]

theorem realignAt_fired_iff (on : Bool) (b : Bytes) (o : Nat) :
    (realignAt on b o).2 = true ↔ (realignAt on b o).1 = o + 4 := by
  unfold realignAt
  split_ifs <;> simp

/-- How the header can fail: a field that does not fit, or the wrong channel string count, at that count (R233). -/
def HeaderFault (b : Bytes) (sub : MalformedSub) (p : Nat) : Prop :=
  (sub = .shortField ∧ p ≤ b.length ∧ (b.length < 32 ∨ b.length < 32 + pad4 (be32 b 28)))
  ∨ (sub = .badChanstr ∧ p = 28 ∧ 32 ≤ b.length ∧ be32 b 28 ≠ 10 * be32 b 0)

theorem cshDec_meets (realign : Bool) (b : Bytes) : (cshDec realign b).Meets
    (fun _ _ => 32 + pad4 (be32 b 28) ≤ b.length ∧ be32 b 28 = 10 * be32 b 0) (HeaderFault b) := by
  have short {p : Nat} (hp : p ≤ b.length) (hshort : b.length < 32 ∨ b.length < 32 + pad4 (be32 b 28)) :
      HeaderFault b .shortField p := .inl ⟨rfl, hp, hshort⟩
  have hpad : be32 b (0 + 4 + 4 + 20) + padlen (be32 b (0 + 4 + 4 + 20)) = pad4 (be32 b 28) := add_padlen _
  refine .andThen (getU32_meets (fun hchannels => ?_) fun _ => short ?_ (.inl ?_))
  refine .andThen (getU32_meets (fun htimeLength => ?_) fun _ => short ?_ (.inl ?_))
  refine .andThen (getTs_meets (fun hstamp => ?_) fun _ => short ?_ (.inl ?_))
  refine .andThen (getU32_meets (fun hsize => ?_) fun _ => short ?_ (.inl ?_))
  split_ifs with hcount
  · exact Res.meets_fail (.inr ⟨rfl, rfl, hsize, hcount⟩)
  refine .andThen (need_meets (fun hstring => ?_) fun _ => short ?_ (.inr ?_))
  refine .andThen (need_meets (fun hpadding => ?_) fun _ => short ?_ (.inr ?_))
  · exact Res.meets_ok ⟨by omega, not_not.mp hcount⟩
  all_goals omega

theorem cshDec_of_badCount {b : Bytes} (realign : Bool) (hlength : 32 ≤ b.length) (hcount : be32 b 28 ≠ 10 * be32 b 0) :
    cshDec realign b = .fail .badChanstr 28 := by
  have hstamp : getTs b 8 = .ok (slice b 8 20) 28 := getTs_of_fits (by omega)
  simp only [cshDec, getU32_of_fits (b := b) (o := 0) (by omega), getU32_of_fits (b := b) (o := 4) (by omega), hstamp,
    getU32_of_fits (b := b) (o := 28) (by omega), Res.andThen, Nat.reduceAdd, if_pos hcount]

/-! ## The body -/

theorem dataDec_fail_iff (c : Cfg) (realign : Bool) (b : Bytes) (sub : MalformedSub) (p : Nat) :
    dataDec c realign b = .fail sub p ↔ cshDec realign b = .fail sub p := by
  simp [dataDec, Res.andThen_fail_iff]

/-- The warnings of a Data body: bit 1 is `W_CHLEN`, bit 2 is `W_REALIGN` (R33). -/
theorem dataWarn_getLsbD (chlen fired : Bool) (j : Nat) :
    (warnIf warnChlen chlen ||| warnIf warnRealign fired).getLsbD j
      = (if j = 1 then chlen else if j = 2 then fired else false) := by
  have hbits : warnIf warnChlen chlen ||| warnIf warnRealign fired = flagBit 1 chlen ||| flagBit 2 fired := rfl
  rw [hbits, BitVec.getLsbD_or, flagBit_getLsbD _ _ (by decide), flagBit_getLsbD _ _ (by decide)]
  by_cases h1 : j = 1
  · simp [h1]
  · simp [h1]

theorem header_fits_of_dataDec {c : Cfg} {realign : Bool} {b : Bytes} {x : Body} {o : Nat}
    (h : dataDec c realign b = .ok x o) : 32 + pad4 (be32 b 28) ≤ b.length ∧ be32 b 28 = 10 * be32 b 0 := by
  obtain ⟨hd, o', hheader, -⟩ := (Res.andThen_ok_iff ..).mp h
  obtain ⟨hok, -⟩ := cshDec_meets realign b
  exact hok hd o' hheader

/-- A body whose header decodes, with the loop from where `REALIGN` leaves the cursor (R234, R248). -/
theorem dataDec_of_fits (c : Cfg) {b : Bytes} (realign : Bool) (hfits : 32 + pad4 (be32 b 28) ≤ b.length)
    (hcount : be32 b 28 = 10 * be32 b 0) : dataDec c realign b =
      let r := realignAt realign b (32 + pad4 (be32 b 28))
      let slots := slotsDec c b (be32 b 0) 0 r.1
      .ok { v := .data
              { header := { numChannels := be32 b 0, frameTimeLengthMs := be32 b 4, nominalTime := slice b 8 20
                            channelString := slice b 32 (be32 b 28) }
                subframes := slots.subframes }
            skips := slots.skips, warn := warnIf warnChlen slots.chlen ||| warnIf warnRealign r.2 } slots.cursor := by
  rw [dataDec, cshDec_of_fits realign hfits hcount]
  rfl

end Sys2Proof.Machine

namespace Sys2Proof.Proofs

open Sys2Proof.Machine Sys2Proof.Claims

/-- Settles O17: the loop gives what its slots give one by one; the header decoder alone can fail. -/
theorem dataSlotsAreAccountedFor : Obligations.DataSlotsAreAccountedFor := by
  refine ⟨fun c realign b x o hdec => ?_, fun c realign b sub p hdec => ?_, fun c realign b hlength hcount => ?_⟩
  · obtain ⟨hfits, hcount⟩ := header_fits_of_dataDec hdec
    rw [dataDec_of_fits c realign hfits hcount] at hdec
    cases hdec
    have hrealign := realignAt_eq realign b (32 + pad4 (be32 b 28))
    have hstart := realignAt_le b realign hfits
    have hfired := realignAt_fired_iff realign b (32 + pad4 (be32 b 28))
    generalize realignAt realign b (32 + pad4 (be32 b 28)) = r at *
    obtain ⟨hsubframes, hskips, hchlen, hcursor⟩ := slotsDec_slotsAre (c := c) (be32 b 0) (slotAt_zero c b r.1)
    simp only [← List.range_eq_range', List.mem_range, Nat.zero_add] at hsubframes hskips hchlen hcursor
    have hchars := le_pad4 (be32 b 28)
    have hchannels : 10 * be32 b 0 ≤ b.length := by omega
    refine ⟨_, _, r.1, rfl, rfl, rfl, ?_, hsubframes, hskips, hcursor, ?_, ?_, fun j h1 h2 => ?_, slotsDec_count c b _ 0 _,
      hskips ▸ slotSkip_indices_pairwise c b r.1 _, hskips ▸ slotSkip_bounds hstart _, hchannels,
      hcursor ▸ slotAt_le hstart _⟩
    · rw [hrealign, apply_ite Prod.fst]
    · rw [dataWarn_getLsbD, if_pos rfl, hchlen]
    · rw [dataWarn_getLsbD, if_neg (by decide), if_pos rfl, hfired]
    · rw [dataWarn_getLsbD, if_neg h1, if_neg h2]
  · obtain ⟨-, hfail⟩ := cshDec_meets realign b
    exact hfail sub p ((dataDec_fail_iff ..).mp hdec)
  · exact (dataDec_fail_iff ..).mpr (cshDec_of_badCount realign hlength hcount)

end Sys2Proof.Proofs

/-! SUPPORT. The derived fields of a subframe (R10, R245, R246). -/

namespace Sys2Proof.Machine

theorem bytes20_toList (ts : Vector Byte 20) : bytes20 ts.toList = some ts := by
  have hsize : ts.toList.toArray.size = 20 := by simp
  rw [bytes20, dif_pos hsize, Option.some.injEq, ← Vector.toArray_inj]
  exact Array.toArray_toList

theorem sampleRateHz_of_length {f : ChannelSubframe} (h : f.subframeTimeLengthMs ≠ 0) :
    sampleRateHz f = some ((1000 * f.sampleCount : Nat) / (f.subframeTimeLengthMs : Nat) : Rat) := if_neg h

theorem endTime_of_divisor_zero (c : Cfg) {f : ChannelSubframe} (h : f.sampleCount = 0 ∨ f.subframeTimeLengthMs = 0) :
    endTime c f = none := if_pos h

theorem endTime_of_unconverted {c : Cfg} {f : ChannelSubframe} {ts : Vector Byte 20} (hts : f.timeStamp = ts.toList)
    (h : c.tsDecode ts = none) : endTime c f = none := by
  simp [endTime, hts, bytes20_toList, h]

theorem endTime_of_converted {c : Cfg} {f : ChannelSubframe} {ts : Vector Byte 20} {t : Instant}
    (hts : f.timeStamp = ts.toList) (h : c.tsDecode ts = some t) (hlength : f.subframeTimeLengthMs ≠ 0)
    (hcount : f.sampleCount ≠ 0) : endTime c f
      = some (t + ((f.subframeTimeLengthMs : Rat) - (f.subframeTimeLengthMs : Rat) / (f.sampleCount : Rat))) := by
  simp [endTime, hts, bytes20_toList, h, hlength, hcount]

end Sys2Proof.Machine

namespace Sys2Proof.Proofs

open Sys2Proof.Machine

/-- Settles O58: each quotient times its divisor. -/
theorem rateAndEndTime : Obligations.RateAndEndTime := by
  intro c f
  refine ⟨fun hlength => ⟨if_pos hlength, endTime_of_divisor_zero c (.inr hlength)⟩,
    fun hcount => endTime_of_divisor_zero c (.inl hcount), fun hlength => ⟨_, sampleRateHz_of_length hlength, ?_⟩,
    fun ts hts => ⟨endTime_of_unconverted hts, fun t ht hlength hcount =>
      ⟨_, endTime_of_converted hts ht hlength hcount, ?_⟩⟩⟩
  · have hdivisor : (f.subframeTimeLengthMs : Rat) ≠ 0 := Nat.cast_ne_zero.mpr hlength
    rw [div_mul_cancel₀ _ hdivisor]
    push_cast
    rfl
  · have hdivisor : (f.sampleCount : Rat) ≠ 0 := Nat.cast_ne_zero.mpr hcount
    rw [add_sub_cancel_left, sub_mul, div_mul_cancel₀ _ hdivisor, mul_sub_one]

end Sys2Proof.Proofs

/-! SUPPORT. Error entry by its origin (R270), the aborting members of the taxonomy (R261), and the reserved codes (R281). -/

namespace Sys2Proof

/-- `Cancelled` is cause 1, and the one error that leaves the stream synchronised (R261, R270). -/
theorem Err.desynchronizes_eq_decide_cause (e : Err) : e.desynchronizes = decide (e.cause ≠ 1) := by
  cases e <;> rfl

/-- The causes of R261 that abort: 4 and 5 are the conditions that are only reported. -/
theorem Err.cause_mem_aborting (e : Err) : e.cause ∈ [1, 2, 3, 6, 7] := by
  simpa using (Err.cause_legal e).resolve_left (Err.cause_ne_zero e)

namespace Machine

open Sys2Proof.Claims

theorem raise_command (c : Cfg) (e : Err) (pos : Nat) (s : State) :
    raise c .command e pos s = { s with cause := e.cause, subcause := e.subcause, epos := eposOf c pos } := rfl

theorem raise_streamer (c : Cfg) (e : Err) (pos : Nat) (s : State) :
    raise c .streamer e pos s =
      { s with
        cause := e.cause, subcause := e.subcause, epos := eposOf c pos, phase := .idle, rawValid := false
        desync := s.desync || decide (e.cause ≠ 1) } := by
  rw [← Err.desynchronizes_eq_decide_cause]
  rfl

/-- `BAD_COMMAND` is sub-code 4 of `CommandRefused` (R262). -/
theorem reservedCommand_eq_refusedWith (c : Cfg) (s : State) : reservedCommand c s = refusedWith 4 s :=
  refuse_eq_refusedWith c .badCommand s

end Machine

end Sys2Proof

namespace Sys2Proof.Proofs

open Sys2Proof.Machine Sys2Proof.Claims

/-- Settles O24: each reserved code runs the one refusal of R281, in whatever phase. -/
theorem nopAndReservedCodes : Obligations.NopAndReservedCodes := by
  intro s
  have hreserved : (.next (reservedCommand Config.cfg s) : Host.Outcome State Fault Refusal) = .next (refusedWith 4 s) :=
    congrArg _ (reservedCommand_eq_refusedWith Config.cfg s)
  exact ⟨rfl, hreserved, hreserved, hreserved, hreserved, hreserved, hreserved, hreserved, hreserved, hreserved⟩

/-- Settles O57: `raise` by its origin, with the numbers of R261 and R262. -/
theorem errorEntry : Obligations.ErrorEntry := fun c e pos s =>
  ⟨raise_command c e pos s, raise_streamer c e pos s, Err.cause_mem_aborting e, Err.subcause_ne_zero e, eposOf_toNat c⟩

end Sys2Proof.Proofs

/-! SUPPORT. What can be read when nothing is valid (R44), and command code 15 (R38, R291). -/

namespace Sys2Proof.Machine

/-- With no region held and no valid bit set, the skip list is the one register that R44 does not guard. -/
theorem readable_iff_skipList {s : State} (hphase : s.phase = .idle) (hraw : s.rawValid = false)
    (hhdr : s.hdrValid = false) (hdecoded : s.decoded = false) (htx : s.txValid = false) (x : ResultReg) :
    readable s x = true ↔ x = .skipList := by
  cases x with
  | skipList => exact iff_of_true rfl rfl
  | hType | hToff | hCreator | hDest | hSeq | hSeries => simp [readable, hhdr]
  | tKeyid | tAuthsz | tAuthval | tCksum | variant | sampleRateHz | endTime => simp [readable, hdecoded]
  | hdrBuf | bodyBuf | tr1Buf | tr2Buf => simp [readable, hraw, hphase]
  | txBuf => simp [readable, htx]

theorem decodeCommand_of_code_reset {c : Command} (hcode : c.code = 15) : decodeCommand c = .reset c.fresh := by
  simp [decodeCommand, hcode]

/-- What `RESET` leaves of `s`: the environment's share alone. -/
def afterReset (fresh : Bytes) (s : State) : State :=
  { State.reset with stream := fresh, inputs := s.inputs, result := s.result }

theorem exec_reset (fresh : Bytes) (s : State) : exec (.reset fresh) s = .next (afterReset fresh s) := rfl

theorem readable_afterReset (fresh : Bytes) (s : State) (x : ResultReg) :
    readable (afterReset fresh s) x = true ↔ x = .skipList := readable_iff_skipList rfl rfl rfl rfl rfl x

theorem afterReset_status (fresh : Bytes) (s : State) : (afterReset fresh s).status = 0 := by
  simp [State.status, afterReset, State.reset, Phase.waiting, flagBit]

/-- Idle and in synchronisation, the block accepts `RDFRAME` (R141). -/
theorem exec_rdframe_afterReset (fresh : Bytes) (s : State) :
    exec .rdframe (afterReset fresh s) = .next (startRead (afterReset fresh s)) := exec_rdframe_of_ready rfl rfl

end Sys2Proof.Machine

namespace Sys2Proof.Proofs

open Sys2Proof.Machine

/-- Settles O38: the next state is `State.reset` with the fresh stream bound, whatever `s` was; the elements are those of
its table (R43). -/
theorem resetRestoresTheResetState : Obligations.ResetRestoresTheResetState := by
  refine ⟨fun c => decodeCommand_of_code_reset, fun s fresh => ⟨afterReset fresh s, exec_reset fresh s, ?_⟩⟩
  exact ⟨rfl, rfl, rfl, rfl, rfl, rfl, rfl, rfl, rfl, rfl, rfl, rfl, rfl, rfl, rfl, rfl, rfl, rfl, rfl, rfl,
    readable_afterReset fresh s, afterReset_status fresh s, rfl, rfl, rfl, rfl,
    startRead (afterReset fresh s), exec_rdframe_afterReset fresh s, startRead_phase _⟩

end Sys2Proof.Proofs
